-- ==== Sys2Proof/Word.lean ====
section
/-! DEFINITION. The word types of the machine (spec 00_scope.md R6, R9; 10_state.md R20 to R29).
Every value is unsigned (R10), so a bit vector's `toNat` is its value. -/

namespace Sys2Proof

/-- A byte: a general register, a timer or one cell of `MEM` (R6 `XLEN`, `TIMER_WIDTH`). -/
abbrev Byte := BitVec 8

/-- A 16-bit word: `I`, `PC` or a stack entry (R6 `I_WIDTH`, `PC_WIDTH`, R27). -/
abbrev Word := BitVec 16

/-- The 16-bit opcode of one instruction (R70). -/
abbrev Opcode := BitVec 16

/-- A 12-bit address immediate `nnn` (R71, R73). -/
abbrev Addr12 := BitVec 12

/-- The number of a general register, 0 to 15 (R21). -/
abbrev Reg := Fin 16

/-- The number of a key, 0 to 15 (R32). -/
abbrev Key := Fin 16

/-- The number of a display cell, `y*64 + x`, 0 to 2047 (R29). -/
abbrev Cell := Fin 2048

/-- The number of `VF`, the register that six instructions also write a flag to (R22). -/
abbrev vf : Reg := 15

end Sys2Proof
end

