-- ==== Sys2Proof/Syntax.lean ====
section
/-! DEFINITION. The instructions: one constructor per row of spec/opcode_table.json (30_encoding.md
R80), in the table's order. The operands are the fields the table gives the row (R71, R72). Bits the
decoder ignores (bits 11:4 of `CLS` and `RET`, bits 3:0 of `5xy0` and `9xy0`, R75, R76) are no operand. -/

namespace Sys2Proof

inductive Instr where
  /-- `00E0` (R170) -/
  | cls
  /-- `00EE` (R121) -/
  | ret
  /-- `0nnn` with a trailing nibble other than 0 and 0xE (R120) -/
  | sysNnn (nnn : Addr12)
  /-- `1nnn` (R122) -/
  | jpNnn (nnn : Addr12)
  /-- `2nnn` (R123) -/
  | callNnn (nnn : Addr12)
  /-- `3xkk` (R130) -/
  | seVxKk (x : Reg) (kk : Byte)
  /-- `4xkk` (R131) -/
  | sneVxKk (x : Reg) (kk : Byte)
  /-- `5xy0` (R132) -/
  | seVxVy (x y : Reg)
  /-- `6xkk` (R100) -/
  | ldVxKk (x : Reg) (kk : Byte)
  /-- `7xkk` (R101) -/
  | addVxKk (x : Reg) (kk : Byte)
  /-- `8xy0` (R110) -/
  | ldVxVy (x y : Reg)
  /-- `8xy1` (R111) -/
  | orVxVy (x y : Reg)
  /-- `8xy2` (R112) -/
  | andVxVy (x y : Reg)
  /-- `8xy3` (R113) -/
  | xorVxVy (x y : Reg)
  /-- `8xy4` (R102) -/
  | addVxVy (x y : Reg)
  /-- `8xy5` (R103) -/
  | subVxVy (x y : Reg)
  /-- `8xy6` (R114): the `y` field is present and not used -/
  | shrVx (x y : Reg)
  /-- `8xy7` (R104) -/
  | subnVxVy (x y : Reg)
  /-- `8xyE` (R115): the `y` field is present and not used -/
  | shlVx (x y : Reg)
  /-- `9xy0` (R133) -/
  | sneVxVy (x y : Reg)
  /-- `Annn` (R140) -/
  | ldINnn (nnn : Addr12)
  /-- `Bnnn` (R124) -/
  | jpV0Nnn (nnn : Addr12)
  /-- `Cxkk` (R105) -/
  | rndVxKk (x : Reg) (kk : Byte)
  /-- `Dxyn` (R171): `n` is a count of rows, 0 to 15 -/
  | drwVxVyN (x y : Reg) (n : Fin 16)
  /-- `Ex9E` (R160) -/
  | skpVx (x : Reg)
  /-- `ExA1` (R161) -/
  | sknpVx (x : Reg)
  /-- `Fx07` (R150) -/
  | ldVxDt (x : Reg)
  /-- `Fx0A` (R162) -/
  | ldVxK (x : Reg)
  /-- `Fx15` (R151) -/
  | ldDtVx (x : Reg)
  /-- `Fx18` (R152) -/
  | ldStVx (x : Reg)
  /-- `Fx1E` (R141) -/
  | addIVx (x : Reg)
  /-- `Fx29` (R142) -/
  | ldFVx (x : Reg)
  /-- `Fx33` (R143) -/
  | ldBVx (x : Reg)
  /-- `Fx55` (R144) -/
  | ldMemVx (x : Reg)
  /-- `Fx65` (R145) -/
  | ldVxMem (x : Reg)
deriving DecidableEq, Repr

end Sys2Proof
end

