-- ==== Sys2Proof/WellFormed.lean ====
section
/-! DEFINITION. Which terms of `Instr` are instructions. Register numbers, immediates and the row
count are in range by their types (R73: "all sixteen values are legal"). The one check left is that a
`SYS` does not carry the trailing nibble of `CLS` or `RET` (30_encoding.md R75). -/

namespace Sys2Proof

/-- The trailing nibble of a group 0 word is neither 0 (`CLS`) nor 0xE (`RET`) (R75, R80). -/
def sysNibbleOk (nnn : Addr12) : Bool :=
  let n := nnn.extractLsb' 0 4
  n != 0x0#4 && n != 0xE#4

/-- The well-formed instructions: those some word decodes to. -/
def Instr.wf : Instr → Bool
  | .sysNnn nnn => sysNibbleOk nnn
  | .cls | .ret | .jpNnn _ | .callNnn _ | .seVxKk _ _ | .sneVxKk _ _ | .seVxVy _ _ | .ldVxKk _ _
  | .addVxKk _ _ | .ldVxVy _ _ | .orVxVy _ _ | .andVxVy _ _ | .xorVxVy _ _ | .addVxVy _ _
  | .subVxVy _ _ | .shrVx _ _ | .subnVxVy _ _ | .shlVx _ _ | .sneVxVy _ _ | .ldINnn _ | .jpV0Nnn _
  | .rndVxKk _ _ | .drwVxVyN _ _ _ | .skpVx _ | .sknpVx _ | .ldVxDt _ | .ldVxK _ | .ldDtVx _
  | .ldStVx _ | .addIVx _ | .ldFVx _ | .ldBVx _ | .ldMemVx _ | .ldVxMem _ => true

end Sys2Proof
end

