-- ==== Sys2Proof/Decode.lean ====
section
/-! DEFINITION. The decoder and the encoder (30_encoding.md). The decoder is R86's: fields by R71,
group by `h`, then by `n` in groups 0 and 8 and by `kk` in groups E and F. It is total and rejects an
illegal word by name (R81). The encoder writes the canonical spelling (R82, R84). The opcode map of
R80 stands beside them as data. -/

namespace Sys2Proof

/-! ## Fields (R9, R71) -/

/-- `h = op[15:12]`, the header nibble. -/
def opHeader (op : Opcode) : BitVec 4 := op.extractLsb' 12 4

/-- `x = op[11:8]`, a register number. -/
def opX (op : Opcode) : Reg := (op.extractLsb' 8 4).toFin

/-- `y = op[7:4]`, a register number. -/
def opY (op : Opcode) : Reg := (op.extractLsb' 4 4).toFin

/-- `n = op[3:0]`, the trailing nibble. -/
def opN (op : Opcode) : Fin 16 := (op.extractLsb' 0 4).toFin

/-- `kk = op[7:0]`, the low byte. -/
def opKK (op : Opcode) : Byte := op.extractLsb' 0 8

/-- `nnn = op[11:0]`, a 12-bit address. -/
def opNNN (op : Opcode) : Addr12 := op.extractLsb' 0 12

/-- The high byte of an opcode: it stands at the lower address (20_memory.md R53). -/
def opHighByte (op : Opcode) : Byte := op.extractLsb' 8 8

/-- The low byte of an opcode: it stands at the higher address (R53). -/
def opLowByte (op : Opcode) : Byte := op.extractLsb' 0 8

/-- Big-endian: the byte at the lower address is the high byte (R53, R70). -/
def joinBytes (hi lo : Byte) : Opcode := hi ++ lo

/-! ## Formats (R72): an opcode put together from its fields -/

/-- Format `NNN`: `h ++ nnn`; also the words of `SYS` in format `Z`. -/
def formatNNN (h : BitVec 4) (nnn : Addr12) : Opcode := h ++ nnn

/-- Formats `XKK` and `XB`: `h ++ x ++ kk`. -/
def formatXKK (h : BitVec 4) (x : Reg) (kk : Byte) : Opcode := h ++ (BitVec.ofFin x : BitVec 4) ++ kk

/-- Formats `XY`, `XY8` and `XYN`: `h ++ x ++ y ++ n`. -/
def formatXYN (h : BitVec 4) (x y n : Fin 16) : Opcode :=
  h ++ (BitVec.ofFin x : BitVec 4) ++ (BitVec.ofFin y : BitVec 4) ++ (BitVec.ofFin n : BitVec 4)

/-! ## Decoder (R74 to R79, R86) -/

/-- Why bytes are not an instruction. -/
inductive DecodeReject where
  /-- An illegal word (R81), with the word: `step` raises `DecodeError(op)` for it. -/
  | decodeError (op : Opcode)
  /-- Fewer than two bytes were given (R70: an instruction is two bytes). `step` never raises it, since
  a fetch reads two bytes or faults. -/
  | truncated
deriving DecidableEq, Repr

/-- Group 0 is selected on `n` alone and never rejects (R75). -/
def decodeGroup0 (op : Opcode) : Instr :=
  match (opN op).val with
  | 0x0 => .cls
  | 0xE => .ret
  | _ => .sysNnn (opNNN op)

/-- Group 8 is selected on `n`; 8 to 0xD and 0xF are illegal (R77). -/
def decodeGroup8 (op : Opcode) : Except DecodeReject Instr :=
  match (opN op).val with
  | 0x0 => .ok (.ldVxVy (opX op) (opY op))
  | 0x1 => .ok (.orVxVy (opX op) (opY op))
  | 0x2 => .ok (.andVxVy (opX op) (opY op))
  | 0x3 => .ok (.xorVxVy (opX op) (opY op))
  | 0x4 => .ok (.addVxVy (opX op) (opY op))
  | 0x5 => .ok (.subVxVy (opX op) (opY op))
  | 0x6 => .ok (.shrVx (opX op) (opY op))
  | 0x7 => .ok (.subnVxVy (opX op) (opY op))
  | 0xE => .ok (.shlVx (opX op) (opY op))
  | _ => .error (.decodeError op)

/-- Group E is selected on `kk` (R78). -/
def decodeGroupE (op : Opcode) : Except DecodeReject Instr :=
  match (opKK op).toNat with
  | 0x9E => .ok (.skpVx (opX op))
  | 0xA1 => .ok (.sknpVx (opX op))
  | _ => .error (.decodeError op)

/-- Group F is selected on `kk` (R79). -/
def decodeGroupF (op : Opcode) : Except DecodeReject Instr :=
  match (opKK op).toNat with
  | 0x07 => .ok (.ldVxDt (opX op))
  | 0x0A => .ok (.ldVxK (opX op))
  | 0x15 => .ok (.ldDtVx (opX op))
  | 0x18 => .ok (.ldStVx (opX op))
  | 0x1E => .ok (.addIVx (opX op))
  | 0x29 => .ok (.ldFVx (opX op))
  | 0x33 => .ok (.ldBVx (opX op))
  | 0x55 => .ok (.ldMemVx (opX op))
  | 0x65 => .ok (.ldVxMem (opX op))
  | _ => .error (.decodeError op)

/-- One word to one instruction, or `DecodeError` (R74, R86). The last arm is header 0xF, the one value
of a nibble the others leave. -/
def decode (op : Opcode) : Except DecodeReject Instr :=
  match (opHeader op).toNat with
  | 0x0 => .ok (decodeGroup0 op)
  | 0x1 => .ok (.jpNnn (opNNN op))
  | 0x2 => .ok (.callNnn (opNNN op))
  | 0x3 => .ok (.seVxKk (opX op) (opKK op))
  | 0x4 => .ok (.sneVxKk (opX op) (opKK op))
  | 0x5 => .ok (.seVxVy (opX op) (opY op))
  | 0x6 => .ok (.ldVxKk (opX op) (opKK op))
  | 0x7 => .ok (.addVxKk (opX op) (opKK op))
  | 0x8 => decodeGroup8 op
  | 0x9 => .ok (.sneVxVy (opX op) (opY op))
  | 0xA => .ok (.ldINnn (opNNN op))
  | 0xB => .ok (.jpV0Nnn (opNNN op))
  | 0xC => .ok (.rndVxKk (opX op) (opKK op))
  | 0xD => .ok (.drwVxVyN (opX op) (opY op) (opN op))
  | 0xE => decodeGroupE op
  | _ => decodeGroupF op

/-- The first instruction of a byte stream, and the bytes after it (R53, R70). -/
def decodeBytes : List Byte → Except DecodeReject (Instr × List Byte)
  | hi :: lo :: rest => (decode (joinBytes hi lo)).map (fun i => (i, rest))
  | [_] | [] => .error .truncated

/-- The instruction read from a word of spec/opcode_table.json: `w` numbers the bits as the table does,
bit 0 the least significant of the opcode; bits at and above `nbits` are 0. The bytes are laid out
big-endian (R53) and given to the decoder. -/
def decodeTableWord (nbits w : Nat) : Option Instr :=
  let op : Opcode := BitVec.ofNat 16 (w % 2 ^ nbits)
  match decodeBytes [opHighByte op, opLowByte op] with
  | .ok (i, _) => some i
  | .error _ => none

/-! ## Encoder (R72, R80): the canonical spelling -/

/-- The opcode of a well-formed instruction. Ignored bits are written as the canonical spelling has
them: `00E0`, `00EE`, `5xy0`, `9xy0` (R82, R84). -/
def encode : Instr → Opcode
  | .cls => 0x00E0#16
  | .ret => 0x00EE#16
  | .sysNnn nnn => formatNNN 0x0#4 nnn
  | .jpNnn nnn => formatNNN 0x1#4 nnn
  | .callNnn nnn => formatNNN 0x2#4 nnn
  | .seVxKk x kk => formatXKK 0x3#4 x kk
  | .sneVxKk x kk => formatXKK 0x4#4 x kk
  | .seVxVy x y => formatXYN 0x5#4 x y 0x0
  | .ldVxKk x kk => formatXKK 0x6#4 x kk
  | .addVxKk x kk => formatXKK 0x7#4 x kk
  | .ldVxVy x y => formatXYN 0x8#4 x y 0x0
  | .orVxVy x y => formatXYN 0x8#4 x y 0x1
  | .andVxVy x y => formatXYN 0x8#4 x y 0x2
  | .xorVxVy x y => formatXYN 0x8#4 x y 0x3
  | .addVxVy x y => formatXYN 0x8#4 x y 0x4
  | .subVxVy x y => formatXYN 0x8#4 x y 0x5
  | .shrVx x y => formatXYN 0x8#4 x y 0x6
  | .subnVxVy x y => formatXYN 0x8#4 x y 0x7
  | .shlVx x y => formatXYN 0x8#4 x y 0xE
  | .sneVxVy x y => formatXYN 0x9#4 x y 0x0
  | .ldINnn nnn => formatNNN 0xA#4 nnn
  | .jpV0Nnn nnn => formatNNN 0xB#4 nnn
  | .rndVxKk x kk => formatXKK 0xC#4 x kk
  | .drwVxVyN x y n => formatXYN 0xD#4 x y n
  | .skpVx x => formatXKK 0xE#4 x 0x9E#8
  | .sknpVx x => formatXKK 0xE#4 x 0xA1#8
  | .ldVxDt x => formatXKK 0xF#4 x 0x07#8
  | .ldVxK x => formatXKK 0xF#4 x 0x0A#8
  | .ldDtVx x => formatXKK 0xF#4 x 0x15#8
  | .ldStVx x => formatXKK 0xF#4 x 0x18#8
  | .addIVx x => formatXKK 0xF#4 x 0x1E#8
  | .ldFVx x => formatXKK 0xF#4 x 0x29#8
  | .ldBVx x => formatXKK 0xF#4 x 0x33#8
  | .ldMemVx x => formatXKK 0xF#4 x 0x55#8
  | .ldVxMem x => formatXKK 0xF#4 x 0x65#8

/-- The two bytes of a well-formed instruction, the high byte first (R53). -/
def encodeBytes (i : Instr) : List Byte := [opHighByte (encode i), opLowByte (encode i)]

/-! ## The opcode map (R80), as data -/

/-- One row: a word selects it when `op AND mask = pattern`. -/
structure OpcodeRow where
  mnemonic : String
  mask : Opcode
  pattern : Opcode
deriving DecidableEq, Repr

/-- The 35 rows of spec/opcode_table.json in the file's order, `CLS` and `RET` before `SYS`: the first
row that matches decodes the word (R80). -/
def opcodeTable : List OpcodeRow :=
  [⟨"CLS", 0xF00F#16, 0x0000#16⟩, ⟨"RET", 0xF00F#16, 0x000E#16⟩, ⟨"SYS_nnn", 0xF000#16, 0x0000#16⟩,
   ⟨"JP_nnn", 0xF000#16, 0x1000#16⟩, ⟨"CALL_nnn", 0xF000#16, 0x2000#16⟩,
   ⟨"SE_Vx__kk", 0xF000#16, 0x3000#16⟩, ⟨"SNE_Vx__kk", 0xF000#16, 0x4000#16⟩,
   ⟨"SE_Vx__Vy", 0xF000#16, 0x5000#16⟩, ⟨"LD_Vx__kk", 0xF000#16, 0x6000#16⟩,
   ⟨"ADD_Vx__kk", 0xF000#16, 0x7000#16⟩] ++
  [⟨"LD_Vx__Vy", 0xF00F#16, 0x8000#16⟩, ⟨"OR_Vx__Vy", 0xF00F#16, 0x8001#16⟩,
   ⟨"AND_Vx__Vy", 0xF00F#16, 0x8002#16⟩, ⟨"XOR_Vx__Vy", 0xF00F#16, 0x8003#16⟩,
   ⟨"ADD_Vx__Vy", 0xF00F#16, 0x8004#16⟩, ⟨"SUB_Vx__Vy", 0xF00F#16, 0x8005#16⟩,
   ⟨"SHR_Vx", 0xF00F#16, 0x8006#16⟩, ⟨"SUBN_Vx__Vy", 0xF00F#16, 0x8007#16⟩,
   ⟨"SHL_Vx", 0xF00F#16, 0x800E#16⟩] ++
  [⟨"SNE_Vx__Vy", 0xF000#16, 0x9000#16⟩, ⟨"LD_I__nnn", 0xF000#16, 0xA000#16⟩,
   ⟨"JP_V0__nnn", 0xF000#16, 0xB000#16⟩, ⟨"RND_Vx__kk", 0xF000#16, 0xC000#16⟩,
   ⟨"DRW_Vx__Vy__n", 0xF000#16, 0xD000#16⟩, ⟨"SKP_Vx", 0xF0FF#16, 0xE09E#16⟩,
   ⟨"SKNP_Vx", 0xF0FF#16, 0xE0A1#16⟩] ++
  [⟨"LD_Vx__DT", 0xF0FF#16, 0xF007#16⟩, ⟨"LD_Vx__K", 0xF0FF#16, 0xF00A#16⟩,
   ⟨"LD_DT__Vx", 0xF0FF#16, 0xF015#16⟩, ⟨"LD_ST__Vx", 0xF0FF#16, 0xF018#16⟩,
   ⟨"ADD_I__Vx", 0xF0FF#16, 0xF01E#16⟩, ⟨"LD_F__Vx", 0xF0FF#16, 0xF029#16⟩,
   ⟨"LD_B__Vx", 0xF0FF#16, 0xF033#16⟩, ⟨"LD__I___Vx", 0xF0FF#16, 0xF055#16⟩,
   ⟨"LD_Vx___I", 0xF0FF#16, 0xF065#16⟩]

/-- The word selects the row (R80). -/
def OpcodeRow.selects (r : OpcodeRow) (op : Opcode) : Bool := op &&& r.mask == r.pattern

/-- The row that decodes a word: the first that matches (R80). -/
def opcodeRowOf (op : Opcode) : Option OpcodeRow := opcodeTable.find? (fun r => r.selects op)

/-- The row's name of an instruction. -/
def Instr.mnemonic : Instr → String
  | .cls => "CLS"
  | .ret => "RET"
  | .sysNnn _ => "SYS_nnn"
  | .jpNnn _ => "JP_nnn"
  | .callNnn _ => "CALL_nnn"
  | .seVxKk _ _ => "SE_Vx__kk"
  | .sneVxKk _ _ => "SNE_Vx__kk"
  | .seVxVy _ _ => "SE_Vx__Vy"
  | .ldVxKk _ _ => "LD_Vx__kk"
  | .addVxKk _ _ => "ADD_Vx__kk"
  | .ldVxVy _ _ => "LD_Vx__Vy"
  | .orVxVy _ _ => "OR_Vx__Vy"
  | .andVxVy _ _ => "AND_Vx__Vy"
  | .xorVxVy _ _ => "XOR_Vx__Vy"
  | .addVxVy _ _ => "ADD_Vx__Vy"
  | .subVxVy _ _ => "SUB_Vx__Vy"
  | .shrVx _ _ => "SHR_Vx"
  | .subnVxVy _ _ => "SUBN_Vx__Vy"
  | .shlVx _ _ => "SHL_Vx"
  | .sneVxVy _ _ => "SNE_Vx__Vy"
  | .ldINnn _ => "LD_I__nnn"
  | .jpV0Nnn _ => "JP_V0__nnn"
  | .rndVxKk _ _ => "RND_Vx__kk"
  | .drwVxVyN _ _ _ => "DRW_Vx__Vy__n"
  | .skpVx _ => "SKP_Vx"
  | .sknpVx _ => "SKNP_Vx"
  | .ldVxDt _ => "LD_Vx__DT"
  | .ldVxK _ => "LD_Vx__K"
  | .ldDtVx _ => "LD_DT__Vx"
  | .ldStVx _ => "LD_ST__Vx"
  | .addIVx _ => "ADD_I__Vx"
  | .ldFVx _ => "LD_F__Vx"
  | .ldBVx _ => "LD_B__Vx"
  | .ldMemVx _ => "LD__I___Vx"
  | .ldVxMem _ => "LD_Vx___I"

end Sys2Proof
end

