-- ==== Sys2Proof/Config.lean ====
section
/-! DEFINITION. The parameters of spec 00_scope.md R6 and the two values the spec leaves open (R7):
the random bytes and `BLOCK_XFER_ADVANCES_I`. The open values have no body, so no proof can
see what they are. The parameter `FONT` (R31) stands in Machine/Font.lean. -/

namespace Sys2Proof.Config

/-- `MEM_SIZE`: 4096 bytes, addresses 0x000 to 0xFFF (R6). -/
abbrev memSize : Nat := 0x1000

/-- `PC_RESET`: the first instruction is fetched here (R6, R44). -/
abbrev pcReset : Word := 0x200#16

/-- `FONT_BASE`: glyph `d` starts at `0x050 + 5*d` (R6, R31). -/
abbrev fontBase : Nat := 0x050

/-- `PROG_BASE`: `load` places the image here (R6, R39). -/
abbrev progBase : Nat := 0x200

/-- `MAX_IMAGE`: the longest image `load` takes (R6, R39). -/
abbrev maxImage : Nat := 3584

/-- `rnd` (R41): the byte delivered to the `k`-th execution of `Cxkk`. A FREE VALUE
(notes/assumptions/1.md): any byte at each draw. -/
opaque rnd : Nat → Byte

/-- `BLOCK_XFER_ADVANCES_I` (R7, R144, R145): whether `Fx55` and `Fx65` leave `I` advanced by
`x + 1`. OPEN in the spec (92_eei_decisions.md D8), so it has no value here
(notes/assumptions/2.md). -/
opaque blockXferAdvancesI : Bool

end Sys2Proof.Config
end

