-- ==== Sys2Proof/Machine/Font.lean ====
section
/-! DEFINITION. The reset contents of `MEM` (10_state.md R31, R44): the configuration field `FONT` and what an
address that memory does not list reads as. -/

namespace Sys2Proof

/-- `FONT` (R31, R7): 16 glyphs of 5 bytes, the conventional CHIP-8 hexadecimal font, which the spec takes
from general knowledge (92_eei_decisions.md D19; notes/assumptions/3.md). -/
def Config.font : List Byte :=
  [0xF0#8, 0x90#8, 0x90#8, 0x90#8, 0xF0#8,  0x20#8, 0x60#8, 0x20#8, 0x20#8, 0x70#8,
   0xF0#8, 0x10#8, 0xF0#8, 0x80#8, 0xF0#8,  0xF0#8, 0x10#8, 0xF0#8, 0x10#8, 0xF0#8] ++
  [0x90#8, 0x90#8, 0xF0#8, 0x10#8, 0x10#8,  0xF0#8, 0x80#8, 0xF0#8, 0x10#8, 0xF0#8,
   0xF0#8, 0x80#8, 0xF0#8, 0x90#8, 0xF0#8,  0xF0#8, 0x10#8, 0x20#8, 0x40#8, 0x40#8] ++
  [0xF0#8, 0x90#8, 0xF0#8, 0x90#8, 0xF0#8,  0xF0#8, 0x90#8, 0xF0#8, 0x10#8, 0xF0#8,
   0xF0#8, 0x90#8, 0xF0#8, 0x90#8, 0x90#8,  0xE0#8, 0x90#8, 0xE0#8, 0x90#8, 0xE0#8] ++
  [0xF0#8, 0x80#8, 0x80#8, 0x80#8, 0xF0#8,  0xE0#8, 0x90#8, 0x90#8, 0x90#8, 0xE0#8,
   0xF0#8, 0x80#8, 0xF0#8, 0x80#8, 0xF0#8,  0xF0#8, 0x80#8, 0xF0#8, 0x80#8, 0x80#8]

/-- What `MEM` holds at an address after reset, and so what an address that memory does not list reads
as: the font at 0x050 to 0x09F and 0x00 elsewhere (R44; the zero is the spec's decision D1,
notes/assumptions/4.md). -/
def Machine.resetByte (a : Nat) : Byte :=
  if Config.fontBase ≤ a then Config.font.getD (a - Config.fontBase) 0x00#8 else 0x00#8

end Sys2Proof
end

