-- ==== Sys2Proof/Machine/State.lean ====
section
/-! DEFINITION. The state of the machine, the ways a step stops, and reset (10_state.md). -/

namespace Sys2Proof.Machine

/-- Why no state follows: the four faults (60_exceptions.md R180), which end the step, are reported to the host
and change nothing (R97, R188), and the one wait (R195). Safe: the hardware reports the same, and
there is no state after it to claim anything about (notes/assumptions/8.md, 16.md). -/
inductive Fault where
  /-- Code 1, raised by `step` on an illegal word, with the word (R181). Safe. -/
  | decodeError (op : Opcode)
  /-- Code 2, raised by `CALL` when `SP = 16` (R182). Safe. -/
  | stackOverflow
  /-- Code 3, raised by `RET` when `SP = 0` (R183). Safe. -/
  | stackUnderflow
  /-- Code 4, raised by the fetch, `Dxyn`, `Fx33`, `Fx55`, `Fx65` with the first address above 0xFFF, and by
  `Ex9E`, `ExA1` with a key index above 15 (R185). Safe. -/
  | boundsViolation (a : Nat)
  /-- Not a fault of R180: the stuck state of `Fx0A` while no key is pressed, where no step is enabled and
  only the host's key events are (40_step_cycle.md R98; 93_implementation_defined.md U20). Raised by
  `Fx0A`. Safe: a `key_down` leads on, and no step does (notes/assumptions/16.md). -/
  | keyWait
deriving DecidableEq, Repr

/-- Instructions without a meaning. -/
inductive Refusal where
  /-- Raised by an arm of `exec` that has no meaning yet; none is left. Safe. -/
  | notModelled (mnemonic : String)
deriving DecidableEq, Repr

/-- `MEM` as a list of (address, byte), in the canonical form `Memory.wf` of Machine/Ops.lean: addresses
strictly rising, and only bytes that differ from the reset contents. -/
abbrev Memory := List Host.Cell

/-- `FB`: 32 rows of 64 cells, row `y` holding cell `(x, y)` in its bit `x` (R29;
notes/assumptions/22.md). -/
abbrev FrameBuffer := Vector (BitVec 64) 32

/-- The eleven elements of 10_state.md R20, and the model's own count of random draws. -/
structure State where
  /-- `V[0..15]`, the general registers; `V[15]` is `VF` (R21, R22) -/
  v : Vector Byte 16
  /-- `I`, the index register (R23) -/
  i : Word
  /-- `PC`, the program counter (R24) -/
  pc : Word
  /-- `DT`, the delay timer (R25) -/
  dt : Byte
  /-- `ST`, the sound timer (R26) -/
  st : Byte
  /-- `SP`, the number of stack entries in use, 0 to 16 (R27) -/
  sp : Fin 17
  /-- `STACK[0..15]`, the return addresses (R27) -/
  stack : Vector Word 16
  /-- `MEM[0..4095]` (R28) -/
  mem : Memory
  /-- `FB[0..2047]`, the frame buffer (R29) -/
  fb : FrameBuffer
  /-- `MOD`, the modified flag (R30) -/
  modified : Bool
  /-- `KEYS[0..15]`, the key latch: bit `k` is key `k` (R32) -/
  keys : BitVec 16
  /-- How many random bytes `Cxkk` has drawn (R41): the model's own field, it makes every draw a fresh
  free value (notes/assumptions/1.md) -/
  rndDraws : Nat
deriving DecidableEq, Repr

/-- The machine right after reset (R44, R200). Memory lists nothing: an unlisted address reads as its
reset contents (`resetByte` of Machine/Font.lean). -/
def State.reset : State where
  v := Vector.replicate 16 0x00#8
  i := 0x0000#16
  pc := Config.pcReset
  dt := 0x00#8
  st := 0x00#8
  sp := 0
  stack := Vector.replicate 16 0x0000#16
  mem := []
  fb := Vector.replicate 32 0#64
  modified := false
  keys := 0x0000#16
  rndDraws := 0

/-- What an instruction's meaning answers. -/
abbrev Result := Host.Outcome State Fault Refusal

end Sys2Proof.Machine
end

