-- ==== Sys2Proof/Machine/Ops.lean ====
section
/-! DEFINITION. The operations over memory and the state that every meaning is written with, and raising a
fault. All reads and writes of a state element go through them. -/

namespace Sys2Proof.Machine

/-! ## Memory (20_memory.md) -/

/-- The byte at an address (R56): the one listed, else the reset contents. -/
def Memory.read : Memory → Nat → Byte
  | [], a => resetByte a
  | (k, b) :: m, a => if k = a then b else Memory.read m a

/-- One byte stored, the canonical form kept: a byte equal to the reset contents is not listed. -/
def Memory.write : Memory → Nat → Byte → Memory
  | [], a, b => if b = resetByte a then [] else [(a, b)]
  | (k, c) :: m, a, b =>
    if a < k then (if b = resetByte a then (k, c) :: m else (a, b) :: (k, c) :: m)
    else if a = k then (if b = resetByte a then m else (a, b) :: m)
    else (k, c) :: Memory.write m a b

/-- The canonical form: addresses strictly rising, each inside `MEM`, and no byte equal to what an
unlisted address reads as. -/
abbrev Memory.wf (m : Memory) : Prop :=
  m.Pairwise (fun c d => c.1 < d.1) ∧ ∀ c ∈ m, c.1 < Config.memSize ∧ c.2 ≠ resetByte c.1

/-- `n` bytes read in ascending address order from `a` (R52, R60). -/
def Memory.readBlock (m : Memory) (a : Nat) : Nat → List Byte
  | 0 => []
  | n + 1 => m.read a :: Memory.readBlock m (a + 1) n

/-- Bytes stored in ascending address order from `a` (R52, R60). -/
def Memory.writeBlock (m : Memory) (a : Nat) : List Byte → Memory
  | [] => m
  | b :: bs => Memory.writeBlock (m.write a b) (a + 1) bs

/-! ## State elements: one accessor and one update each (10_state.md) -/

/-- `V[r]` (R21). -/
def State.reg (s : State) (r : Reg) : Byte := s.v[r.val]

/-- `V[r] <- b` (R21). -/
def State.setReg (s : State) (r : Reg) (b : Byte) : State := { s with v := s.v.set r.val b }

/-- `I <- w`, all 16 bits (R23). -/
def State.setIndex (s : State) (w : Word) : State := { s with i := w }

/-- `PC <- w`, odd or even (R24). -/
def State.setPc (s : State) (w : Word) : State := { s with pc := w }

/-- `DT <- b` (R25). -/
def State.setDelay (s : State) (b : Byte) : State := { s with dt := b }

/-- `ST <- b` (R26). -/
def State.setSound (s : State) (b : Byte) : State := { s with st := b }

/-- `MEM <- m` (R28). -/
def State.setMem (s : State) (m : Memory) : State := { s with mem := m }

/-- `FB <- fb` (R29). -/
def State.setDisplay (s : State) (fb : FrameBuffer) : State := { s with fb := fb }

/-- `MOD <- b` (R30). -/
def State.setModified (s : State) (b : Bool) : State := { s with modified := b }

/-- `KEYS <- ks` (R32). -/
def State.setKeys (s : State) (ks : BitVec 16) : State := { s with keys := ks }

/-- One random byte has been drawn (R41). -/
def State.nextDraw (s : State) : State := { s with rndDraws := s.rndDraws + 1 }

/-- `KEYS[k]` (R32). -/
def State.key (s : State) (k : Nat) : Bool := s.keys.getLsbD k

/-- `STACK[j]` (R27). -/
def State.stackEntry (s : State) (j : Fin 16) : Word := s.stack[j.val]

/-! ## The call stack (10_state.md R27) -/

/-- Push: `STACK[SP] <- w; SP <- SP + 1`, or nothing when `SP = 16`. -/
def State.push (s : State) (w : Word) : Option State :=
  if h : s.sp.val < 16 then
    some { s with stack := s.stack.set s.sp.val w, sp := ⟨s.sp.val + 1, by omega⟩ }
  else none

/-- Pop: `SP <- SP - 1` and the entry `STACK[SP]`, which stays in place, or nothing when `SP = 0`. -/
def State.pop (s : State) : Option (Word × State) :=
  if h : 0 < s.sp.val then
    some (s.stack[s.sp.val - 1], { s with sp := ⟨s.sp.val - 1, by omega⟩ })
  else none

/-! ## Faults (60_exceptions.md R180, R188) -/

/-- Taking an exception, the one way a step faults. The machine has no handler, vector, saved register or
mode (R188): the step ends, the fault is its result and no state element changes (40_step_cycle.md
R97). There is no return from it (R189). -/
def raise (f : Fault) : Result := .fault f

/-- The stall (40_step_cycle.md R98): no step is enabled in this state, and nothing changes. -/
def stall : Result := .fault .keyWait

/-- The labels of R180 (92_eei_decisions.md D20); the wait has none. -/
def Fault.code : Fault → Option Nat
  | .decodeError _ => some 1
  | .stackOverflow => some 2
  | .stackUnderflow => some 3
  | .boundsViolation _ => some 4
  | .keyWait => none

/-- All `n` addresses from `base` lie in `MEM`; the sum is not truncated, and no address is no violation
(20_memory.md R57, 48_display.md R171 (b)). -/
def rangeOk (base : Word) (n : Nat) : Bool := n = 0 || base.toNat + n ≤ Config.memSize

/-- The first offending address of a range that is not in `MEM`: `max(base, 0x1000)` (R185, conflict C14). -/
def firstOutside (base : Word) : Nat := max base.toNat Config.memSize

/-- The bounds check of a memory access, made for every address before anything is written (R57). -/
def guardRange (base : Word) (n : Nat) (k : Result) : Result :=
  if rangeOk base n then k else raise (.boundsViolation (firstOutside base))

/-! ## The program counter (40_step_cycle.md R94) -/

/-- The default advance, modulo 2^16. -/
def State.advancePc (s : State) : State := s.setPc (s.pc + 2#16)

/-- `pc <- target`, which replaces the default advance. -/
def State.jump (s : State) (target : Word) : State := s.setPc target

/-- A skip: past the next instruction when taken, else the default advance. -/
def State.skipIf (s : State) (taken : Bool) : State := s.setPc (s.pc + if taken then 4#16 else 2#16)

end Sys2Proof.Machine
end

