-- ==== Sys2Proof/Machine/Operands.lean ====
section
/-! DEFINITION. Operand forms: immediates widened with zeros (30_encoding.md R73), effective addresses
(45_memory_index.md introduction), register blocks (R144, R145) and keys (47_input.md). -/

namespace Sys2Proof.Machine

/-- `zext_16(nnn)` (R10, R73). -/
def zextAddr (nnn : Addr12) : Word := nnn.setWidth 16

/-- `zext_16(b)` (R10). -/
def zextByte (b : Byte) : Word := b.setWidth 16

/-- The effective address `I + j`, neither truncated nor masked (45_memory_index.md introduction). -/
def State.effAddr (s : State) (j : Nat) : Nat := s.i.toNat + j

/-- The address of the glyph of digit `b`, for any byte: `0x050 + 5*b` (R142). -/
def glyphAddr (b : Byte) : Word := BitVec.ofNat 16 (Config.fontBase + 5 * b.toNat)

/-- `V[0]` to `V[x]`, in order (R144). -/
def State.regBlock (s : State) (x : Reg) : List Byte := s.v.toList.take (x.val + 1)

/-- `V[j] <- ` the first byte, `V[j+1] <- ` the next, and so on (R145). -/
def State.loadRegs (s : State) (j : Nat) : List Byte → State
  | [] => s
  | b :: bs => State.loadRegs (s.setReg (Fin.ofNat 16 j) b) (j + 1) bs

/-- `I` after a block transfer of `x + 1` bytes: advanced when `BLOCK_XFER_ADVANCES_I` holds, which the
spec leaves open (R144, R145; notes/assumptions/2.md). -/
def State.afterBlock (s : State) (x : Reg) : Word :=
  if Config.blockXferAdvancesI then s.i + BitVec.ofNat 16 (x.val + 1) else s.i

/-- The three decimal digits of a byte: hundreds, tens, ones (R143). -/
def bcdDigits (b : Byte) : List Byte :=
  [BitVec.ofNat 8 (b.toNat / 100), BitVec.ofNat 8 (b.toNat / 10 % 10), BitVec.ofNat 8 (b.toNat % 10)]

/-- `lowest_key()`: the least `k` with `KEYS[k] = 1`, if any (R11, R162). -/
def State.lowestKey (s : State) : Option Nat := (List.range 16).find? (fun k => s.key k)

end Sys2Proof.Machine
end

