-- ==== Sys2Proof/Machine/Cycle.lean ====
section
/-! DEFINITION. The phases every step shares (40_step_cycle.md R90): fetch, decode, timer tick, frame emission; and
the end of a run. -/

namespace Sys2Proof.Machine

/-- Phase 1 (R91): the two bytes at `PC`, the first the high byte (20_memory.md R53), or the first address
above 0xFFF. -/
def fetch (s : State) : Except Fault Opcode :=
  if rangeOk s.pc 2 then .ok (joinBytes (s.mem.read s.pc.toNat) (s.mem.read (s.pc.toNat + 1)))
  else .error (.boundsViolation (firstOutside s.pc))

/-- Phases 1 and 2 (R91, R92): the fetched instruction, or the fault that ends the step. -/
def fetchDecode (s : State) : Except Fault Instr :=
  match fetch s with
  | .error f => .error f
  | .ok op =>
    match decode op with
    | .ok i => .ok i
    | .error _ => .error (.decodeError op)

/-- A timer one step later: down by one, 0 stays 0 (R95). -/
def tickByte (t : Byte) : Byte := if t = 0#8 then 0#8 else t - 1#8

/-- Phase 5 (R95): both timers tick, after the instruction's effects (92_eei_decisions.md D5;
notes/assumptions/7.md). -/
def State.tick (s : State) : State := (s.setDelay (tickByte s.dt)).setSound (tickByte s.st)

/-- The frame output of phase 6 (R96): a copy of `FB` exactly when `MOD = 1`. -/
def State.frameOut (s : State) : Option FrameBuffer := if s.modified then some s.fb else none

/-- Phases 5 and 6 of a step that completes (R90). -/
def State.complete (s : State) : State := s.tick.setModified false

/-- The end of a run (R99): `PC` at a `JP` to its own address with both timers 0, a fixed point of `step`. A
convention of the programs, not a signal of the hardware (92_eei_decisions.md D27;
notes/assumptions/27.md). -/
def State.Ended (s : State) : Prop :=
  s.dt = 0#8 ∧ s.st = 0#8 ∧ ∃ nnn, fetchDecode s = .ok (.jpNnn nnn) ∧ nnn.toNat = s.pc.toNat

/-- The two bytes of a word stored where the next step fetches. With `PC` above 0xFFE no fetch reads
anything, and nothing is stored. -/
def State.placeWord (s : State) (op : Opcode) : State :=
  if rangeOk s.pc 2 then s.setMem (s.mem.writeBlock s.pc.toNat [opHighByte op, opLowByte op]) else s

end Sys2Proof.Machine
end

