-- ==== Sys2Proof/Machine/Flags.lean ====
section
/-! DEFINITION. The values written to `VF`, each 0 or 1 (10_state.md R22; 41_arithmetic.md R102 to R104, R107;
42_logic_shift.md R114, R115; 48_display.md R171), and the write that orders result and flag (R106). -/

namespace Sys2Proof.Machine

/-- A flag as `VF` holds it: 1 or 0 (R22). -/
def flagByte (b : Bool) : Byte := if b then 1#8 else 0#8

/-- Carry of `a + b`: 1 exactly when the 9-bit sum exceeds 255 (R102, R107). -/
def carryFlag (a b : Byte) : Byte := flagByte (255 < a.toNat + b.toNat)

/-- No borrow in `a - b`: 1 exactly when `a >= b` (R103, R104, R107). -/
def noBorrowFlag (a b : Byte) : Byte := flagByte (b.toNat ≤ a.toNat)

/-- Bit 0 before a shift right (R114). -/
def lowBitFlag (a : Byte) : Byte := flagByte (a.getLsbD 0)

/-- Bit 7 before a shift left (R115). -/
def highBitFlag (a : Byte) : Byte := flagByte (a.getLsbD 7)

/-- The result to `V[x]`, then the flag to `VF`, which survives when `x = 0xF` (R106, R93;
92_eei_decisions.md D7, notes/assumptions/9.md). -/
def State.setRegAndFlag (s : State) (x : Reg) (result flag : Byte) : State :=
  (s.setReg x result).setReg vf flag

end Sys2Proof.Machine
end

