-- ==== Sys2Proof/Machine/Arithmetic.lean ====
section
/-! DEFINITION. The arithmetic group (41_arithmetic.md): sums and differences modulo 256 (R107). -/

namespace Sys2Proof.Machine

/-- `LD Vx, kk` (R100). -/
def execLdVxKk (x : Reg) (kk : Byte) (s : State) : Result :=
  .next (s.setReg x kk).advancePc

/-- `ADD Vx, kk` (R101): no flag. -/
def execAddVxKk (x : Reg) (kk : Byte) (s : State) : Result :=
  .next (s.setReg x (s.reg x + kk)).advancePc

/-- `ADD Vx, Vy` (R102). -/
def execAddVxVy (x y : Reg) (s : State) : Result :=
  let a := s.reg x
  let b := s.reg y
  .next (s.setRegAndFlag x (a + b) (carryFlag a b)).advancePc

/-- `SUB Vx, Vy` (R103). -/
def execSubVxVy (x y : Reg) (s : State) : Result :=
  let a := s.reg x
  let b := s.reg y
  .next (s.setRegAndFlag x (a - b) (noBorrowFlag a b)).advancePc

/-- `SUBN Vx, Vy` (R104): the operands reversed, the destination still `V[x]`. -/
def execSubnVxVy (x y : Reg) (s : State) : Result :=
  let a := s.reg x
  let b := s.reg y
  .next (s.setRegAndFlag x (b - a) (noBorrowFlag b a)).advancePc

/-- `RND Vx, kk` (R105): a fresh random byte masked with `kk`. -/
def execRndVxKk (x : Reg) (kk : Byte) (s : State) : Result :=
  .next ((s.setReg x (Config.rnd s.rndDraws &&& kk)).nextDraw).advancePc

end Sys2Proof.Machine
end

