-- ==== Sys2Proof/Machine/ControlFlow.lean ====
section
/-! DEFINITION. The control-flow group (43_control_flow.md). -/

namespace Sys2Proof.Machine

/-- `SYS nnn` (R120): a no-operation, `nnn` is not used. -/
def execSysNnn (_nnn : Addr12) (s : State) : Result := .next s.advancePc

/-- `RET` (R121): `PC` becomes exactly the popped value. -/
def execRet (s : State) : Result :=
  match s.pop with
  | some (target, t) => .next (t.jump target)
  | none => raise .stackUnderflow

/-- `JP nnn` (R122). -/
def execJpNnn (nnn : Addr12) (s : State) : Result := .next (s.jump (zextAddr nnn))

/-- `CALL nnn` (R123): pushes the address of the next instruction. -/
def execCallNnn (nnn : Addr12) (s : State) : Result :=
  match s.push (s.pc + 2#16) with
  | some t => .next (t.jump (zextAddr nnn))
  | none => raise .stackOverflow

/-- `JP V0, nnn` (R124): the sum is not masked to 12 bits. -/
def execJpV0Nnn (nnn : Addr12) (s : State) : Result :=
  .next (s.jump (zextAddr nnn + zextByte (s.reg 0)))

end Sys2Proof.Machine
end

