-- ==== Sys2Proof/Machine/Display.lean ====
section
/-! DEFINITION. The display group and the sprite blitter (48_display.md). -/

namespace Sys2Proof.Machine

/-! ## The frame buffer (10_state.md R29) -/

/-- `FB[c]`: cell `(c mod 64, c div 64)`. -/
def FrameBuffer.cell (fb : FrameBuffer) (c : Cell) : Bool :=
  (fb[c.val / 64]'(by omega)).getLsbD (c.val % 64)

/-- `FB[c] <- FB[c] XOR 1`. -/
def FrameBuffer.toggle (fb : FrameBuffer) (c : Cell) : FrameBuffer :=
  fb.set (c.val / 64) ((fb[c.val / 64]'(by omega)) ^^^ (1#64 <<< (c.val % 64))) (by omega)

/-- All 2048 cells 0 (R170). -/
def FrameBuffer.clear : FrameBuffer := Vector.replicate 32 0#64

/-! ## The blitter (R172 to R175) -/

/-- Column `b` of a sprite row is bit `7 - b` of its byte (R172). -/
def spriteBit (row : Byte) (b : Nat) : Bool := row.getLsbD (7 - b)

/-- The cell of the sprite pixel at row `r`, column `b`, both coordinates wrapping on their own (R173). -/
def targetCell (px py r b : Nat) : Cell :=
  ⟨(py + r) % 32 * 64 + (px + b) % 64, by omega⟩

/-- A draw under way: the frame buffer so far, and whether a lit cell was erased. -/
structure Blit where
  fb : FrameBuffer
  collision : Bool
deriving DecidableEq, Repr

/-- One sprite pixel: a set bit toggles its cell, and a toggled lit cell is a collision (R174). -/
def Blit.plot (p : Blit) (c : Cell) (bit : Bool) : Blit :=
  if bit then ⟨p.fb.toggle c, p.collision || p.fb.cell c⟩ else p

/-- One sprite row, columns 0 to 7 (R171). -/
def Blit.row (p : Blit) (px py r : Nat) (row : Byte) : Blit :=
  (List.range 8).foldl (fun p b => p.plot (targetCell px py r b) (spriteBit row b)) p

/-- Sprite rows `r`, `r + 1`, and so on (R171). -/
def Blit.rows (p : Blit) (px py : Nat) : Nat → List Byte → Blit
  | _, [] => p
  | r, b :: bs => Blit.rows (p.row px py r b) px py (r + 1) bs

/-- `draw_sprite`: the frame buffer and the collision of a whole draw (R171, R174). -/
def FrameBuffer.draw (fb : FrameBuffer) (px py : Nat) (rows : List Byte) : Blit :=
  Blit.rows ⟨fb, false⟩ px py 0 rows

/-! ## Instructions -/

/-- `CLS` (R170). -/
def execCls (s : State) : Result :=
  .next ((s.setDisplay FrameBuffer.clear).setModified true).advancePc

/-- `DRW Vx, Vy, n` (R171): the coordinates are read before `VF` is written; with `n = 0` there is no bounds
check. -/
def execDrwVxVyN (x y : Reg) (n : Fin 16) (s : State) : Result :=
  let drawn := s.fb.draw (s.reg x).toNat (s.reg y).toNat (s.mem.readBlock (s.effAddr 0) n.val)
  guardRange s.i n.val
    (.next (((s.setDisplay drawn.fb).setReg vf (flagByte drawn.collision)).setModified true).advancePc)

end Sys2Proof.Machine
end

