-- ==== Sys2Proof/Machine/Input.lean ====
section
/-! DEFINITION. The input group (47_input.md). The latch `KEYS` is read and never written (10_state.md R32). -/

namespace Sys2Proof.Machine

/-- The bounds check of a key index (R160, R161; 92_eei_decisions.md D12). -/
def guardKey (k : Byte) (next : Result) : Result :=
  if k.toNat ≤ 15 then next else raise (.boundsViolation k.toNat)

/-- `SKP Vx` (R160). -/
def execSkpVx (x : Reg) (s : State) : Result :=
  guardKey (s.reg x) (.next (s.skipIf (s.key (s.reg x).toNat)))

/-- `SKNP Vx` (R161). -/
def execSknpVx (x : Reg) (s : State) : Result :=
  guardKey (s.reg x) (.next (s.skipIf (!s.key (s.reg x).toNat)))

/-- `LD Vx, K` (R162): the lowest pressed key, at once when one is down. While none is down the
instruction stalls: no step is enabled until the host's `key_down` (40_step_cycle.md R98;
notes/assumptions/16.md). -/
def execLdVxK (x : Reg) (s : State) : Result :=
  match s.lowestKey with
  | some k => .next (s.setReg x (BitVec.ofNat 8 k)).advancePc
  | none => stall

end Sys2Proof.Machine
end

