-- ==== Sys2Proof/Machine/LogicShift.lean ====
section
/-! DEFINITION. The logic and shift group (42_logic_shift.md). Only the shifts write `VF` as a flag. -/

namespace Sys2Proof.Machine

/-- `LD Vx, Vy` (R110). -/
def execLdVxVy (x y : Reg) (s : State) : Result :=
  .next (s.setReg x (s.reg y)).advancePc

/-- `OR Vx, Vy` (R111). -/
def execOrVxVy (x y : Reg) (s : State) : Result :=
  .next (s.setReg x (s.reg x ||| s.reg y)).advancePc

/-- `AND Vx, Vy` (R112). -/
def execAndVxVy (x y : Reg) (s : State) : Result :=
  .next (s.setReg x (s.reg x &&& s.reg y)).advancePc

/-- `XOR Vx, Vy` (R113). -/
def execXorVxVy (x y : Reg) (s : State) : Result :=
  .next (s.setReg x (s.reg x ^^^ s.reg y)).advancePc

/-- `SHR Vx` (R114): `V[y]` is neither read nor written. -/
def execShrVx (x _y : Reg) (s : State) : Result :=
  let a := s.reg x
  .next (s.setRegAndFlag x (a >>> 1) (lowBitFlag a)).advancePc

/-- `SHL Vx` (R115): `V[y]` is neither read nor written. -/
def execShlVx (x _y : Reg) (s : State) : Result :=
  let a := s.reg x
  .next (s.setRegAndFlag x (a <<< 1) (highBitFlag a)).advancePc

end Sys2Proof.Machine
end

