-- ==== Sys2Proof/Machine/MemoryIndex.lean ====
section
/-! DEFINITION. The memory and index group (45_memory_index.md). -/

namespace Sys2Proof.Machine

/-- `LD I, nnn` (R140). -/
def execLdINnn (nnn : Addr12) (s : State) : Result :=
  .next (s.setIndex (zextAddr nnn)).advancePc

/-- `ADD I, Vx` (R141): modulo 2^16, no flag. -/
def execAddIVx (x : Reg) (s : State) : Result :=
  .next (s.setIndex (s.i + zextByte (s.reg x))).advancePc

/-- `LD F, Vx` (R142). -/
def execLdFVx (x : Reg) (s : State) : Result :=
  .next (s.setIndex (glyphAddr (s.reg x))).advancePc

/-- `LD B, Vx` (R143): three digits stored at `I`, `I+1`, `I+2`. -/
def execLdBVx (x : Reg) (s : State) : Result :=
  guardRange s.i 3
    (.next (s.setMem (s.mem.writeBlock (s.effAddr 0) (bcdDigits (s.reg x)))).advancePc)

/-- `LD [I], Vx` (R144): `V[0]` to `V[x]` stored from `I` up. -/
def execLdMemVx (x : Reg) (s : State) : Result :=
  guardRange s.i (x.val + 1)
    (.next ((s.setMem (s.mem.writeBlock (s.effAddr 0) (s.regBlock x))).setIndex
      (s.afterBlock x)).advancePc)

/-- `LD Vx, [I]` (R145): `V[0]` to `V[x]` loaded from `I` up. -/
def execLdVxMem (x : Reg) (s : State) : Result :=
  guardRange s.i (x.val + 1)
    (.next ((s.loadRegs 0 (s.mem.readBlock (s.effAddr 0) (x.val + 1))).setIndex
      (s.afterBlock x)).advancePc)

end Sys2Proof.Machine
end

