-- ==== Sys2Proof/Machine/Timer.lean ====
section
/-! DEFINITION. The timer group (46_timer.md). The tick that follows in the same step is in
Machine/Cycle.lean. -/

namespace Sys2Proof.Machine

/-- `LD Vx, DT` (R150): `DT` as it stood at the start of the step. -/
def execLdVxDt (x : Reg) (s : State) : Result := .next (s.setReg x s.dt).advancePc

/-- `LD DT, Vx` (R151). -/
def execLdDtVx (x : Reg) (s : State) : Result := .next (s.setDelay (s.reg x)).advancePc

/-- `LD ST, Vx` (R152). -/
def execLdStVx (x : Reg) (s : State) : Result := .next (s.setSound (s.reg x)).advancePc

end Sys2Proof.Machine
end

