-- ==== Sys2Proof/Machine/Step.lean ====
section
/-! DEFINITION. One step (40_step_cycle.md R90): fetch, decode, execute with the PC update, then the tick and the
frame emission of a step that completes. -/

namespace Sys2Proof.Machine

/-- One invocation of `step()` (R90): a fault ends it with nothing changed (R97), and no step is enabled while
`Fx0A` waits for a key (R98). -/
def step (s : State) : Host.Outcome State Fault Refusal :=
  match fetchDecode s with
  | .error f => raise f
  | .ok i =>
    match exec i s with
    | .next t => .next t.complete
    | .fault f => .fault f
    | .refused r => .refused r

/-- `s` with the instruction whose bits are `w`, numbered as spec/opcode_table.json numbers them, stored at
`PC`, so that the next step runs it. It stands for the host's `load` (notes/assumptions/18.md). -/
def State.withFetchWord (s : State) (nbits w : Nat) : State :=
  s.placeWord (BitVec.ofNat 16 (w % 2 ^ nbits))

end Sys2Proof.Machine
end

