-- ==== Sys2Proof/Machine/HostPort.lean ====
section
/-! DEFINITION. The core surface (10_state.md R38 to R43): the outputs of a step, and what the host does between
steps. Every action lands between two steps, or while `Fx0A` is stalled (R42). -/

namespace Sys2Proof.Machine

/-! ## The outputs of `step()` (R40) -/

/-- The `result` output: `Ok`, or a fault with its information (R40); `stalled` while the invocation holds in
`Fx0A` and has no output yet (R98). -/
inductive StepResult where
  | ok
  | fault (f : Fault)
  | stalled
  | refused (r : Refusal)
deriving DecidableEq, Repr

/-- What the host is told when no state follows. -/
def StepResult.ofFault : Fault → StepResult
  | .decodeError op => .fault (.decodeError op)
  | .stackOverflow => .fault .stackOverflow
  | .stackUnderflow => .fault .stackUnderflow
  | .boundsViolation a => .fault (.boundsViolation a)
  | .keyWait => .stalled

/-- What one `step()` leaves and returns (R40). -/
structure StepReport where
  /-- the state after the step; the state before it when the step faults (R97) -/
  state : State
  /-- `opcode_fetched`; absent when the fetch itself faults, where it has no defined value (R40;
  notes/assumptions/25.md) -/
  opcodeFetched : Option Opcode
  result : StepResult
  /-- the copy of `FB`, present exactly when `MOD` was 1 at the frame phase (R96) -/
  frame : Option FrameBuffer
deriving DecidableEq, Repr

/-- The word a step fetches, if the fetch does not fault. -/
def fetchedWord (s : State) : Option Opcode :=
  match fetch s with
  | .ok op => some op
  | .error _ => none

/-- `step()` with its outputs (R40, R96, R97, R98). -/
def stepReport (s : State) : StepReport :=
  match fetchDecode s with
  | .error f => ⟨s, fetchedWord s, .ofFault f, none⟩
  | .ok i =>
    match exec i s with
    | .next t => ⟨t.complete, fetchedWord s, .ok, t.tick.frameOut⟩
    | .fault f => ⟨s, fetchedWord s, .ofFault f, none⟩
    | .refused r => ⟨s, fetchedWord s, .refused r, none⟩

/-! ## Operations on the state -/

/-- `key_down(k)` (R42). An index above 15 is a contract violation the type shuts out
(93_implementation_defined.md U11). -/
def State.keyDown (s : State) (k : Key) : State := s.setKeys (s.keys ||| (1#16 <<< k.val))

/-- `key_up(k)` (R42). -/
def State.keyUp (s : State) (k : Key) : State := s.setKeys (s.keys &&& ~~~(1#16 <<< k.val))

/-- `load(bytes)` (R39): the image at 0x200, or nothing when it is longer than 3584 bytes. -/
def State.load (s : State) (bytes : List Byte) : Option State :=
  if bytes.length ≤ Config.maxImage then some (s.setMem (s.mem.writeBlock Config.progBase bytes)) else none

/-- `snapshot()` (R43): a copy of all of `FB`; it changes nothing. -/
def State.snapshot (s : State) : FrameBuffer := s.fb

/-- An explicit reset (R38): registers, display and keys as after initialization; `MEM` is established at
initialization and stays (notes/assumptions/20.md). -/
def State.explicitReset (s : State) : State :=
  { State.reset with mem := s.mem, rndDraws := s.rndDraws }

/-! ## A session of the host -/

/-- What the host can do (R38 to R43). -/
inductive HostAction where
  | reset
  | load (bytes : List Byte)
  | step
  | keyDown (k : Key)
  | keyUp (k : Key)
  | snapshot
deriving DecidableEq, Repr

/-- Why an action is refused (R39; 93_implementation_defined.md U12). Both are safe. -/
inductive HostRefusal where
  /-- The image is longer than 3584 bytes; raised by `load`. -/
  | imageTooLong
  /-- A `load` after the first step, which the spec supports no claim about; raised by `load`. -/
  | loadAfterStart
deriving DecidableEq, Repr

/-- The core and what the host has seen of it. -/
structure Session where
  core : State
  /-- a step has been invoked -/
  started : Bool
  /-- the first fault reported; no later step clears it (60_exceptions.md R186) -/
  faulted : Option Fault
  /-- the outputs of the last step -/
  lastStep : Option StepReport
  /-- the last snapshot taken -/
  lastSnapshot : Option FrameBuffer
deriving DecidableEq, Repr

/-- After initialization (R38, R202). -/
def Session.initial : Session := ⟨State.reset, false, none, none, none⟩

/-- The fault of a step's result, if it is one. -/
def StepResult.fault? : StepResult → Option Fault
  | .fault f => some f
  | .ok => none
  | .stalled => none
  | .refused _ => none

/-- One action of the host. While the core holds in `Fx0A`, `key_down` alone lets it go on (R98, R195), and
`step` is the same invocation, still holding. A reset, too, is accepted then and leaves the wait,
since the core is no longer at the `Fx0A`; the spec leaves that open, and it is the model's choice, as
is a snapshot then (notes/assumptions/31.md). So are two more: a reset after a fault is accepted,
and steps run on from 0x200 (notes/assumptions/32.md); and `load` is accepted any number of times
before the first step (notes/assumptions/18.md). -/
def Session.perform (h : Session) : HostAction → Except HostRefusal Session
  | .reset => .ok { h with core := h.core.explicitReset }
  | .load bytes =>
    if h.started then .error .loadAfterStart
    else
      match h.core.load bytes with
      | some s => .ok { h with core := s }
      | none => .error .imageTooLong
  | .step =>
    let r := stepReport h.core
    .ok { h with core := r.state, started := true, lastStep := some r,
                 faulted := h.faulted.or r.result.fault? }
  | .keyDown k => .ok { h with core := h.core.keyDown k }
  | .keyUp k => .ok { h with core := h.core.keyUp k }
  | .snapshot => .ok { h with lastSnapshot := some h.core.snapshot }

/-- Actions one after another, up to the first that is refused. -/
def Session.performAll (h : Session) : List HostAction → Except HostRefusal Session
  | [] => .ok h
  | a :: as =>
    match h.perform a with
    | .ok h' => h'.performAll as
    | .error e => .error e

end Sys2Proof.Machine
end

