-- ==== Sys2Proof/Safety.lean ====
section
/-! DEFINITION. The terms claims are stated in: the invariant of the machine, what a step leaves unchanged, and
what an instruction may write. -/

namespace Sys2Proof.Machine

/-! ## The invariant -/

/-- Memory is in its canonical form, and `MOD` is 0 between two steps (10_state.md R30). `SP` in 0 to 16
(R27) holds by its type. -/
def State.Inv (s : State) : Prop := s.mem.wf ∧ s.modified = false

/-! ## Frames: `t` after, `s` before -/

/-- Every general register but those named is unchanged. -/
def SameRegsExcept (written : List Reg) (s t : State) : Prop := ∀ r, r ∉ written → t.reg r = s.reg r

/-- Every byte of memory reads as before. -/
def SameMemory (s t : State) : Prop := ∀ a, t.mem.read a = s.mem.read a

/-- Every byte of memory outside the `n` bytes from `base` reads as before. -/
def SameMemoryOutside (base n : Nat) (s t : State) : Prop :=
  ∀ a, ¬(base ≤ a ∧ a < base + n) → t.mem.read a = s.mem.read a

/-- The call stack is unchanged. -/
def SameStack (s t : State) : Prop := t.sp = s.sp ∧ t.stack = s.stack

/-- Both timers are unchanged. -/
def SameTimers (s t : State) : Prop := t.dt = s.dt ∧ t.st = s.st

/-- The frame buffer and `MOD` are unchanged. -/
def SameDisplay (s t : State) : Prop := t.fb = s.fb ∧ t.modified = s.modified

/-- The key latch, and the count of random draws, are unchanged. -/
def SameInputs (s t : State) : Prop := t.keys = s.keys ∧ t.rndDraws = s.rndDraws

/-- Only `PC` may differ. -/
def OnlyPcChanges (s t : State) : Prop :=
  SameRegsExcept [] s t ∧ t.i = s.i ∧ SameMemory s t ∧ SameStack s t ∧ SameTimers s t ∧ SameDisplay s t ∧
    SameInputs s t

/-- Only `PC` and the registers named may differ. -/
def OnlyRegsChange (written : List Reg) (s t : State) : Prop :=
  SameRegsExcept written s t ∧ t.i = s.i ∧ SameMemory s t ∧ SameStack s t ∧ SameTimers s t ∧
    SameDisplay s t ∧ SameInputs s t

/-! ## What an instruction may write (10_state.md R21, R22, 40_step_cycle.md R94) -/

/-- The general registers an instruction writes: its destination, `V0` to `Vx` for `Fx65`, and `VF` for the
six that define it as a flag (R21, R22). -/
def writesOf : Instr → List Reg
  | .ldVxKk x _ | .addVxKk x _ | .ldVxVy x _ | .orVxVy x _ | .andVxVy x _ | .xorVxVy x _
  | .rndVxKk x _ | .ldVxDt x | .ldVxK x => [x]
  | .addVxVy x _ | .subVxVy x _ | .subnVxVy x _ | .shrVx x _ | .shlVx x _ => [x, vf]
  | .drwVxVyN _ _ _ => [vf]
  | .ldVxMem x => (List.range (x.val + 1)).map (Fin.ofNat 16)
  | .cls | .ret | .sysNnn _ | .jpNnn _ | .callNnn _ | .seVxKk _ _ | .sneVxKk _ _ | .seVxVy _ _
  | .sneVxVy _ _ | .ldINnn _ | .jpV0Nnn _ | .skpVx _ | .sknpVx _ | .ldDtVx _ | .ldStVx _
  | .addIVx _ | .ldFVx _ | .ldBVx _ | .ldMemVx _ => []

/-- A skip is taken: its condition holds (44_skip.md R130 to R133, 47_input.md R160, R161). -/
def skipTaken (i : Instr) (s : State) : Bool :=
  match i with
  | .seVxKk x kk => s.reg x == kk
  | .sneVxKk x kk => s.reg x != kk
  | .seVxVy x y => s.reg x == s.reg y
  | .sneVxVy x y => s.reg x != s.reg y
  | .skpVx x => s.key (s.reg x).toNat
  | .sknpVx x => !s.key (s.reg x).toNat
  | .cls | .ret | .sysNnn _ | .jpNnn _ | .callNnn _ | .ldVxKk _ _ | .addVxKk _ _ | .ldVxVy _ _
  | .orVxVy _ _ | .andVxVy _ _ | .xorVxVy _ _ | .addVxVy _ _ | .subVxVy _ _ | .shrVx _ _
  | .subnVxVy _ _ | .shlVx _ _ | .ldINnn _ | .jpV0Nnn _ | .rndVxKk _ _ | .drwVxVyN _ _ _
  | .ldVxDt _ | .ldVxK _ | .ldDtVx _ | .ldStVx _ | .addIVx _ | .ldFVx _ | .ldBVx _ | .ldMemVx _
  | .ldVxMem _ => false

/-- Calls one after another, to the addresses given. -/
def callAll (s : State) : List Addr12 → Result
  | [] => .next s
  | nnn :: rest =>
    match exec (.callNnn nnn) s with
    | .next t => callAll t rest
    | .fault f => .fault f
    | .refused r => .refused r

/-- `k` steps from `s` reach the end of a run in `t` (40_step_cycle.md R99). -/
def EndsAfter (k : Nat) (s t : State) : Prop := (Sys2Proof.core.run k s : Result) = .next t ∧ t.Ended

/-- `Fx0A` with no key pressed: the state in which no step is enabled (40_step_cycle.md R98). -/
def WaitsForKey (s : State) : Prop :=
  (∃ x, fetchDecode s = .ok (.ldVxK x)) ∧ ∀ k : Key, s.key k.val = false

/-! ## Words and sprites -/

/-- The illegal words, exactly (30_encoding.md R81). -/
def IllegalWord (op : Opcode) : Prop :=
  (opHeader op = 0x8#4 ∧ (opN op).val ∈ [0x8, 0x9, 0xA, 0xB, 0xC, 0xD, 0xF]) ∨
  (opHeader op = 0xE#4 ∧ opKK op ∉ [0x9E#8, 0xA1#8]) ∨
  (opHeader op = 0xF#4 ∧
    opKK op ∉ [0x07#8, 0x0A#8, 0x15#8, 0x18#8, 0x1E#8, 0x29#8, 0x33#8, 0x55#8, 0x65#8])

/-- A set sprite bit at row `r`, column `b` of `rows`, drawn at (`px`, `py`), targets cell `c`
(48_display.md R172, R173). -/
def SpriteBitAt (px py : Nat) (rows : List Byte) (r b : Nat) (c : Cell) : Prop :=
  b < 8 ∧ (∃ row, rows[r]? = some row ∧ row.getLsbD (7 - b) = true) ∧
    c.val = (py + r) % 32 * 64 + (px + b) % 64

/-- Some set sprite bit targets cell `c`. -/
def SpriteCovers (px py : Nat) (rows : List Byte) (c : Cell) : Prop :=
  ∃ r b, SpriteBitAt px py rows r b c

/-! ## Observations (10_state.md R27, R33) -/

/-- Equal but for `ST`. -/
def SameButSound (s t : State) : Prop := t = s.setSound t.st

/-- Equal but for the contents of stack slots at or above `SP`, which are not live. -/
def SameButDeadSlots (s t : State) : Prop :=
  t = { s with stack := t.stack } ∧ ∀ j : Fin 16, j.val < s.sp.val → t.stackEntry j = s.stackEntry j

/-- Two outcomes agree, next states up to `R`. -/
def OutcomesAgree (R : State → State → Prop) : Result → Result → Prop
  | .next t, .next t' => R t t'
  | .fault f, .fault f' => f = f'
  | .refused r, .refused r' => r = r'
  | .next _, .fault _ | .next _, .refused _ | .fault _, .next _ | .fault _, .refused _
  | .refused _, .next _ | .refused _, .fault _ => False

end Sys2Proof.Machine
end

