-- ==== Sys2Proof/Certificates/Slice0/Obligations.lean ====
section
/-! DEFINITION. The statements for the provers. A docstring names the rules of spec/ a statement comes from; where a
clause rests on a choice the spec marks as its own (a decision D<n>, or general knowledge G<n>), it
says so and names the entry of notes/assumptions/. `PC + 2` and `PC + 4` are modulo 2^16 wherever they
stand (R94, with decision D13, notes/assumptions/13.md). -/

open Sys2Proof Sys2Proof.Machine

/-! ## Encoding (30_encoding.md) -/

/-- Every operand of every well-formed instruction survives encoding and decoding, as a word and as
bytes at the head of any byte stream. The canonical spelling `encode` writes and the check of `SYS` are
the model's choice (notes/assumptions/26.md); the encodings are general knowledge G1 with decisions D2
to D4 (notes/assumptions/5.md, 6.md, 23.md). -/
def Obligations.DecodeInvertsEncode : Prop :=
  ∀ i : Instr, i.wf = true →
    decode (encode i) = .ok i ∧ ∀ rest, decodeBytes (encodeBytes i ++ rest) = .ok (i, rest)

/-- R82 (b) to (e): a legal word is its instruction's canonical word or one of the four classes of other
spellings (decisions D2, D3; notes/assumptions/5.md), and what it decodes to is well formed. R82 (a)
counts the `SYS` words as a fifth class of legal words that are not canonical; that they are canonical
here, since `encode` writes them (R84), is the model's choice (notes/assumptions/26.md). -/
def Obligations.NonCanonicalSpellingsAreOnlyThese : Prop :=
  ∀ op i, decode op = .ok i → i.wf = true ∧
    (encode i = op ∨
      (i = .cls ∧ opHeader op = 0x0#4 ∧ opN op = 0x0) ∨
      (i = .ret ∧ opHeader op = 0x0#4 ∧ opN op = 0xE) ∨
      (i = .seVxVy (opX op) (opY op) ∧ opHeader op = 0x5#4 ∧ opN op ≠ 0x0) ∨
      (i = .sneVxVy (opX op) (opY op) ∧ opHeader op = 0x9#4 ∧ opN op ≠ 0x0))

/-- R80: the decoder answers the first matching row of the opcode table, and rejects the words no row
matches. The table's patterns and mnemonics are general knowledge G1 and decision D22
(notes/assumptions/23.md), the bits it leaves out decisions D2 to D4 (notes/assumptions/5.md, 6.md). -/
def Obligations.DecoderFollowsOpcodeTable : Prop :=
  ∀ op, (∀ i, decode op = .ok i → (opcodeRowOf op).map OpcodeRow.mnemonic = some i.mnemonic) ∧
    ((∃ e, decode op = .error e) ↔ opcodeRowOf op = none)

/-- R71: the six fields at their bit positions, and the opcode put together again from its nibbles. -/
def Obligations.FieldsRecombineToOpcode : Prop :=
  ∀ op : Opcode,
    (opHeader op).toNat = op.toNat / 4096 ∧ (opX op).val = op.toNat / 256 % 16 ∧
    (opY op).val = op.toNat / 16 % 16 ∧ (opN op).val = op.toNat % 16 ∧
    (opKK op).toNat = op.toNat % 256 ∧ (opNNN op).toNat = op.toNat % 4096 ∧
    (opKK op).toNat = 16 * (opY op).val + (opN op).val ∧
    (opNNN op).toNat = 256 * (opX op).val + 16 * (opY op).val + (opN op).val ∧
    formatXYN (opHeader op) (opX op) (opY op) (opN op) = op

/-- R75: group 0 is selected on the trailing nibble alone and never rejects (decision D2,
notes/assumptions/5.md). -/
def Obligations.GroupZeroIsSelectedOnTrailingNibble : Prop :=
  ∀ x y n : Fin 16, decode (formatXYN 0x0#4 x y n) =
    .ok (if n = 0x0 then .cls else if n = 0xE then .ret
      else .sysNnn (BitVec.ofNat 12 (256 * x.val + 16 * y.val + n.val)))

/-- Words written out from the encodings of R80, one of every family, decode to what they stand for. The
patterns are general knowledge G1 (notes/assumptions/23.md), and the rejected word is decision D4
(notes/assumptions/6.md). -/
def Obligations.WrittenOutWordsDecode : Prop :=
  decode 0x6A07#16 = .ok (.ldVxKk 0xA 0x07#8) ∧ decode 0x8124#16 = .ok (.addVxVy 1 2) ∧
  decode 0x8406#16 = .ok (.shrVx 4 0) ∧ decode 0x2300#16 = .ok (.callNnn 0x300#12) ∧
  decode 0x3F01#16 = .ok (.seVxKk 0xF 0x01#8) ∧ decode 0xF265#16 = .ok (.ldVxMem 2) ∧
  decode 0xF018#16 = .ok (.ldStVx 0) ∧ decode 0xE39E#16 = .ok (.skpVx 3) ∧
  decode 0xD125#16 = .ok (.drwVxVyN 1 2 5) ∧ decode 0x8128#16 = .error (.decodeError 0x8128#16)

/-! ## Reset and the host (10_state.md) -/

/-- R44, R38: every state element after reset, and after an explicit reset by the host. That memory outside the
font is zero is decision D1, the font bytes are D19 and `MOD = 0` is D18 (notes/assumptions/3.md,
4.md, 17.md). That an explicit reset keeps `MEM` is the model's reading of R38
(notes/assumptions/20.md), that it keeps the count of draws is the model's choice
(notes/assumptions/1.md), and so is that it is accepted in every session: also while `Fx0A` waits,
where R98 and R195 let only a `key_down` lead on (notes/assumptions/31.md), and after a fault
(notes/assumptions/32.md). -/
def Obligations.ResetSetsEveryElement : Prop :=
  ((∀ r, State.reset.reg r = 0x00#8) ∧ State.reset.i = 0x0000#16 ∧ State.reset.pc = 0x0200#16 ∧
    State.reset.dt = 0x00#8 ∧ State.reset.st = 0x00#8 ∧ State.reset.sp = 0 ∧
    (∀ j, State.reset.stackEntry j = 0x0000#16) ∧ (∀ c, State.reset.fb.cell c = false) ∧
    State.reset.modified = false ∧ (∀ k, State.reset.key k = false) ∧
    ∀ a, State.reset.mem.read a =
      if 0x050 ≤ a ∧ a ≤ 0x09F then Config.font.getD (a - 0x050) 0x00#8 else 0x00#8) ∧
  ∀ h : Session, ∃ t, h.perform .reset = .ok { h with core := t } ∧
    (∀ r, t.reg r = 0x00#8) ∧ t.i = 0x0000#16 ∧ t.pc = 0x0200#16 ∧ t.dt = 0x00#8 ∧ t.st = 0x00#8 ∧
    t.sp = 0 ∧ (∀ j, t.stackEntry j = 0x0000#16) ∧ (∀ c, t.fb.cell c = false) ∧ t.modified = false ∧
    (∀ k, t.key k = false) ∧ t.mem = h.core.mem ∧ t.rndDraws = h.core.rndDraws

/-- R39: `load` places an image of at most 3584 bytes at 0x200 and changes nothing else, and fails on a
longer one (that bytes above the image keep their value is decision D21, notes/assumptions/18.md). -/
def Obligations.LoadPlacesImageAndNothingElse : Prop :=
  ∀ (s : State) (bytes : List Byte), s.mem.wf →
    (bytes.length ≤ 3584 → ∃ t, s.load bytes = some t ∧
      (∀ j b, bytes[j]? = some b → t.mem.read (0x200 + j) = b) ∧
      SameMemoryOutside 0x200 bytes.length s t ∧ t = s.setMem t.mem) ∧
    (3584 < bytes.length → s.load bytes = none)

/-- R42: `key_down` and `key_up` set one latch bit, change nothing else, and may be applied at any time
between steps. -/
def Obligations.KeyEventsWriteOneLatchBit : Prop :=
  ∀ (s : State) (k : Key),
    (∀ j : Key, (s.keyDown k).key j.val = if j = k then true else s.key j.val) ∧
    (∀ j : Key, (s.keyUp k).key j.val = if j = k then false else s.key j.val) ∧
    s.keyDown k = s.setKeys (s.keyDown k).keys ∧ s.keyUp k = s.setKeys (s.keyUp k).keys ∧
    ∀ h : Session, h.perform (.keyDown k) = .ok { h with core := h.core.keyDown k } ∧
      h.perform (.keyUp k) = .ok { h with core := h.core.keyUp k }

/-- R43: `snapshot()` returns all of `FB` and changes no state, `MOD` included. That it is accepted in every
session, also while `Fx0A` waits, where R43 says between steps, is the model's choice with decision
D26 (notes/assumptions/31.md). -/
def Obligations.SnapshotReturnsDisplayAndChangesNothing : Prop :=
  ∀ h : Session, ∃ h', h.perform .snapshot = .ok h' ∧ h'.lastSnapshot = some h.core.fb ∧
    h'.core = h.core ∧ h'.lastStep = h.lastStep

/-- R186, R39, R40: a step of a session leaves the state its report gives, keeps the report, and records
its fault if it is the first; whatever the host does next, the record is kept, and once a step has been
invoked `load` is refused; before that it is `State.load` (the record is the model's,
notes/assumptions/8.md; the refusal, and that a repeated `load` is accepted, are decision D21 and the
model's, notes/assumptions/18.md). That a step may be invoked again while `Fx0A` holds, and is then
reported stalled, is the model's choice (notes/assumptions/16.md), and that the record outlasts a reset
too (notes/assumptions/32.md). That a model keeps such a record is R186's inference. -/
def Obligations.SessionKeepsFaultRecordAndRefusesLateLoad : Prop :=
  (∀ h : Session, ∃ h', h.perform .step = .ok h' ∧ h'.core = (stepReport h.core).state ∧
    h'.lastStep = some (stepReport h.core) ∧ h'.started = true ∧ h'.lastSnapshot = h.lastSnapshot ∧
    (∀ f, h.faulted = none → (stepReport h.core).result = .fault f → h'.faulted = some f) ∧
    ((∀ f, (stepReport h.core).result ≠ .fault f) → h'.faulted = h.faulted)) ∧
  (∀ (h : Session) (bytes : List Byte), h.started = false →
    (∀ s, h.core.load bytes = some s → h.perform (.load bytes) = .ok { h with core := s }) ∧
    (h.core.load bytes = none → h.perform (.load bytes) = .error .imageTooLong)) ∧
  ∀ (h h' : Session) (later : List HostAction), h.performAll later = .ok h' →
    (∀ f, h.faulted = some f → h'.faulted = some f) ∧
    (h.started = true ∨ HostAction.step ∈ later →
      ∀ bytes, h'.perform (.load bytes) = .error .loadAfterStart)

/-- R40, R97, R98, R188: a step is reported `Ok` with the next state exactly when `step` answers it, as a fault
exactly when `step` faults, and as stalled exactly when `step` waits for a key; with no next state the
state is as it was and no frame is emitted (decision D6, notes/assumptions/8.md; the wait as an
outcome of its own is the model's choice, notes/assumptions/16.md). -/
def Obligations.FaultingStepLeavesStateAndEmitsNoFrame : Prop :=
  ∀ s : State,
    (∀ t, step s = .next t ↔ (stepReport s).result = .ok ∧ (stepReport s).state = t) ∧
    ((stepReport s).result = .stalled ↔ step s = .fault .keyWait) ∧
    ∀ f, (f ≠ .keyWait → ((stepReport s).result = .fault f ↔ step s = .fault f)) ∧
      (step s = .fault f → (stepReport s).state = s ∧ (stepReport s).frame = none)

/-- R189: a step that faults faults again the same way, whatever the keys and however many random bytes
were drawn since: no fault condition depends on them. The wait of `Fx0A` is no fault, and a key ends it
(`StallHoldsStateUntilKeyDown`). R189 marks this as derived; it rests on the fault conditions of
decisions D11 and D12 (notes/assumptions/12.md) and on the unchanged state of D6
(notes/assumptions/8.md), and the wait as an outcome is the model's choice (notes/assumptions/16.md). -/
def Obligations.FaultRepeatsWhateverKeysAndDraws : Prop :=
  ∀ (s : State) (f : Fault) (ks : BitVec 16) (d : Nat), f ≠ .keyWait →
    step s = .fault f → step { s with keys := ks, rndDraws := d } = .fault f

/-! ## The step (40_step_cycle.md) -/

/-- R90, R92, R93, R97, R98: when the two bytes at `PC` decode to `i`, `step` is `exec i` followed by the tick of
both timers and the clearing of `MOD`, or the fault of `exec i` (the places of the tick and of the
clearing are decisions D5 and D18, notes/assumptions/7.md, 17.md; that the wait of `Fx0A` is an
outcome of its own, without a next state, is the model's choice for R98's hold,
notes/assumptions/16.md). -/
def Obligations.StepRunsTheDecodedInstruction : Prop :=
  ∀ (s : State) (i : Instr), s.pc.toNat ≤ 0xFFE →
    decode (joinBytes (s.mem.read s.pc.toNat) (s.mem.read (s.pc.toNat + 1))) = .ok i →
    (∀ t, exec i s = .next t →
      step s = .next { t with dt := tickByte t.dt, st := tickByte t.st, modified := false }) ∧
    (∀ f, exec i s = .fault f → step s = .fault f)

/-- R91: the fetch reads the two bytes at `PC` big-endian and nothing else, and the word is the step's
`opcode_fetched`; with `PC` above 0xFFE the step faults with the first address above 0xFFF (that
addresses are checked and not wrapped is decision D11, notes/assumptions/12.md). That a faulting fetch
changes nothing is R97 with decision D6 (notes/assumptions/8.md). -/
def Obligations.FetchReadsTwoBytesBigEndianOrFaults : Prop :=
  ∀ s : State,
    (s.pc.toNat ≤ 0xFFE → ∃ op, fetch s = .ok op ∧ (stepReport s).opcodeFetched = some op ∧
      op.toNat = 256 * (s.mem.read s.pc.toNat).toNat + (s.mem.read (s.pc.toNat + 1)).toNat) ∧
    (0xFFE < s.pc.toNat →
      step s = .fault (.boundsViolation (if 0xFFF < s.pc.toNat then s.pc.toNat else 0x1000)) ∧
      (stepReport s).state = s) ∧
    ∀ s' : State, s'.pc = s.pc → s'.mem.read s.pc.toNat = s.mem.read s.pc.toNat →
      s'.mem.read (s.pc.toNat + 1) = s.mem.read (s.pc.toNat + 1) → fetch s' = fetch s

/-- R181, with R81's classes: the decoder rejects exactly the illegal words; a step that fetched one
raises `DecodeError` with that word and has no further effect, and no other step raises it; group 0
never does (the unlisted selectors of groups E and F are decision D4, notes/assumptions/6.md). That the
step changes nothing, `PC` and timers included, is R97 with decision D6 (notes/assumptions/8.md); the
unlisted selectors of group 8 are D4 as well, the selectors' values general knowledge G1
(notes/assumptions/23.md), and group 0 is decision D2, groups 5 and 9 D3 (notes/assumptions/5.md). -/
def Obligations.DecodeErrorExactlyOnIllegalWords : Prop :=
  ∀ op : Opcode, (decode op = .error (.decodeError op) ↔ IllegalWord op) ∧
    (opHeader op = 0x0#4 → ¬ IllegalWord op) ∧
    ∀ s : State, fetch s = .ok op →
      (IllegalWord op → step s = .fault (.decodeError op) ∧ (stepReport s).state = s) ∧
      (∀ op', step s = .fault (.decodeError op') → IllegalWord op ∧ op' = op)

/-- R95: every completed step ticks both timers once, after the instruction's own effect on them, and a
faulting or stalled one not at all (the place of the tick is decision D5, notes/assumptions/7.md, and no
tick on a fault is D6, notes/assumptions/8.md). That `Fx15` and `Fx18` write `V[x]` is general knowledge
G9 (notes/assumptions/23.md), and the wait as an outcome of `step` is the model's choice
(notes/assumptions/16.md). -/
def Obligations.CompletedStepTicksBothTimersOnce : Prop :=
  ∀ (s : State) (i : Instr), fetchDecode s = .ok i →
    (∀ f, step s = .fault f → (stepReport s).state.dt = s.dt ∧ (stepReport s).state.st = s.st) ∧
    ∀ t, step s = .next t →
      ((∀ x, i ≠ .ldDtVx x) → t.dt.toNat = s.dt.toNat - 1) ∧
      ((∀ x, i ≠ .ldStVx x) → t.st.toNat = s.st.toNat - 1) ∧
      (∀ x, i = .ldDtVx x → t.dt.toNat = (s.reg x).toNat - 1) ∧
      (∀ x, i = .ldStVx x → t.st.toNat = (s.reg x).toNat - 1)

/-- R96: with `MOD = 0` before, a step emits a frame exactly when it completed a `CLS` or a `DRW`; the
frame is `FB` at the end of the step, and `MOD` is 0 again (decision D18, notes/assumptions/17.md). R96
marks the equivalence as derived; a fault's missing frame is decision D6 (notes/assumptions/8.md), the
wait as an outcome the model's choice (notes/assumptions/16.md), and the frame of a `DRW` with `n = 0`
decision D24 (notes/assumptions/21.md). -/
def Obligations.FrameExactlyAfterClsOrDrw : Prop :=
  ∀ s : State, s.modified = false →
    ((stepReport s).frame.isSome = true ↔ (stepReport s).result = .ok ∧
      ∃ i, fetchDecode s = .ok i ∧ (i = .cls ∨ ∃ x y n, i = .drwVxVyN x y n)) ∧
    (∀ fb, (stepReport s).frame = some fb → fb = (stepReport s).state.fb) ∧
    (stepReport s).state.modified = false

/-- R98, R195: a step stalls exactly on `Fx0A` with no key pressed, and then `step` answers no next
state; nothing changes, no frame is emitted, and neither a `key_up`, a snapshot nor the step invoked
again leads on; after a `key_down` the same step completes with that key in `V[x]`, one advance of `PC`
and one tick. The form of the hold, an outcome without a next state, is the model's choice
(notes/assumptions/16.md); a reset by the host, which ends the wait, is not spoken of here
(notes/assumptions/31.md). The level is decision D16 (the same entry 16), the key's number in `V[x]`
general knowledge G10 (notes/assumptions/23.md), the place of the tick decision D5
(notes/assumptions/7.md), and a snapshot during the wait the model's choice (the same entry 31). -/
def Obligations.StallHoldsStateUntilKeyDown : Prop :=
  ∀ s : State,
    ((stepReport s).result = .stalled ↔ WaitsForKey s) ∧ (step s = .fault .keyWait ↔ WaitsForKey s) ∧
    (WaitsForKey s → (stepReport s).state = s ∧ (stepReport s).frame = none ∧
      (∀ k : Key, WaitsForKey (s.keyUp k)) ∧
      ∀ (h h' : Session) (a : HostAction), h.core = s → h.perform a = .ok h' →
        (a = .step ∨ a = .snapshot ∨ ∃ k, a = .keyUp k) → h'.core = s) ∧
    ∀ x, fetchDecode s = .ok (.ldVxK x) → (∀ k : Key, s.key k.val = false) →
      ∀ k : Key, (stepReport (s.keyDown k)).result = .ok ∧
        ∃ t, step (s.keyDown k) = .next t ∧ (t.reg x).toNat = k.val ∧ t.pc = s.pc + 2#16 ∧
          t.dt = tickByte s.dt ∧ t.st = tickByte s.st

/-- R99: at the end of a run, a jump to its own address with both timers 0, `step` answers the same
state, so a run that has ended has ended after every later step too; and a fixed point of `step` is such
a state or a `JP V0` to its own address (that this is the end of a run is decision D27,
notes/assumptions/27.md). The targets are general knowledge G5 (notes/assumptions/23.md) and, for `JP
V0`, decision D15 (notes/assumptions/15.md); that nothing else is a fixed point rests also on the sums
of `PC` (D13, notes/assumptions/13.md), on `SP` as a count (D14, notes/assumptions/14.md), on `MOD`
(D18, notes/assumptions/17.md) and on the wait being no step (notes/assumptions/16.md). -/
def Obligations.SelfJumpIsFixedPoint : Prop :=
  (∀ (s : State) (nnn : Addr12), fetchDecode s = .ok (.jpNnn nnn) → s.pc.toNat = nnn.toNat →
    s.dt = 0#8 → s.st = 0#8 → s.modified = false → s.Ended ∧ step s = .next s) ∧
  (∀ (k j : Nat) (s t : State), EndsAfter k s t → t.modified = false → EndsAfter (k + j) s t) ∧
  ∀ s : State, step s = .next s → s.dt = 0#8 ∧ s.st = 0#8 ∧ s.modified = false ∧
    (s.Ended ∨ ∃ nnn, fetchDecode s = .ok (.jpV0Nnn nnn) ∧ nnn.toNat + (s.reg 0).toNat = s.pc.toNat)

/-- Every instruction has a meaning: no step is refused. -/
def Obligations.NoStepIsRefused : Prop := ∀ (s : State) (r : Refusal), step s ≠ .refused r

/-! ## Invariant -/

/-- Every step keeps the canonical form of memory and leaves `MOD` 0. The canonical form is the model's
way to hold `MEM` (notes/assumptions/22.md), and `MOD` is consumed in the same step by decision D18
(notes/assumptions/17.md). -/
def Obligations.StepKeepsInvariant : Prop :=
  ∀ s t : State, s.Inv → step s = .next t → t.Inv

/-- Reset meets the invariant. The canonical form is the model's (notes/assumptions/22.md), and `MOD =
0` is decision D18 (notes/assumptions/17.md). -/
def Obligations.ResetMeetsInvariant : Prop := State.reset.Inv

/-- Every action of the host keeps the invariant, `load`, an explicit reset and a faulting step
included. The canonical form is the model's (notes/assumptions/22.md), `MOD = 0` is decision D18
(notes/assumptions/17.md), `MEM` after an explicit reset is the model's reading
(notes/assumptions/20.md), and a fault's unchanged state is decision D6 (notes/assumptions/8.md). -/
def Obligations.HostActionsKeepInvariant : Prop :=
  ∀ (h h' : Session) (a : HostAction), h.core.Inv → h.perform a = .ok h' → h'.core.Inv

/-! ## Rules of the whole machine -/

/-- R28: no instruction but `Fx33` and `Fx55` writes memory, and no action of the host but `load` and a step of
those. That an explicit reset (R38) does not either is the model's reading
(notes/assumptions/20.md). -/
def Obligations.OnlyStoresAndLoadWriteMemory : Prop :=
  (∀ (i : Instr) (s t : State), exec i s = .next t → (∀ x, i ≠ .ldBVx x) → (∀ x, i ≠ .ldMemVx x) →
    t.mem = s.mem) ∧
  (∀ (h h' : Session) (a : HostAction), h.perform a = .ok h' → (∀ bytes, a ≠ .load bytes) →
    a ≠ .step → h'.core.mem = h.core.mem) ∧
  (∀ s t : State, step s = .next t →
    (∀ x, fetchDecode s ≠ .ok (.ldBVx x)) → (∀ x, fetchDecode s ≠ .ok (.ldMemVx x)) → t.mem = s.mem)

/-- R29: no instruction but `CLS` and `DRW` writes a cell of `FB` or sets `MOD`. -/
def Obligations.OnlyClsAndDrwWriteDisplay : Prop :=
  ∀ (i : Instr) (s t : State), exec i s = .next t → i ≠ .cls → (∀ x y n, i ≠ .drwVxVyN x y n) →
    SameDisplay s t

/-- R32: no step writes the key latch, and no action of the host but a key event and a reset does. -/
def Obligations.OnlyKeyEventsAndResetWriteKeys : Prop :=
  (∀ s t : State, step s = .next t → t.keys = s.keys) ∧
  ∀ (h h' : Session) (a : HostAction), h.perform a = .ok h' → a ≠ .reset →
    (∀ k, a ≠ .keyDown k) → (∀ k, a ≠ .keyUp k) → h'.core.keys = h.core.keys

/-- R27, R34: no instruction but `CALL` and `RET` touches the stack; a push and a pop move `SP` by one (`SP` as an
upward count is decision D14, notes/assumptions/14.md). -/
def Obligations.OnlyCallAndRetTouchStack : Prop :=
  ∀ (i : Instr) (s t : State), exec i s = .next t →
    ((∀ nnn, i ≠ .callNnn nnn) → i ≠ .ret → SameStack s t) ∧
    (∀ nnn, i = .callNnn nnn → t.sp.val = s.sp.val + 1) ∧ (i = .ret → t.sp.val + 1 = s.sp.val)

/-- R21, R22: a register changes only under an instruction that names it as destination, `V0` to `Vx`
under `Fx65`, and `VF` under the six that define it as a flag. That nothing else writes `VF` is R22's
inference, for `Fx1E` also decision D10 (notes/assumptions/11.md); the destinations are general
knowledge G2, G7, G9 and G10 (notes/assumptions/23.md). -/
def Obligations.RegistersChangeOnlyAsNamed : Prop :=
  ∀ (i : Instr) (s t : State), exec i s = .next t → SameRegsExcept (writesOf i) s t

/-- R23: `I` is written by `Annn`, `Fx1E`, `Fx29`, and perhaps by `Fx55` and `Fx65`, and by nothing
else. The three are general knowledge G8 (notes/assumptions/23.md), and the two are open by decision D8
(notes/assumptions/2.md). -/
def Obligations.IndexChangesOnlyAsNamed : Prop :=
  ∀ (i : Instr) (s t : State), exec i s = .next t →
    (∀ nnn, i ≠ .ldINnn nnn) → (∀ x, i ≠ .addIVx x) → (∀ x, i ≠ .ldFVx x) → (∀ x, i ≠ .ldMemVx x) →
    (∀ x, i ≠ .ldVxMem x) → t.i = s.i

/-- R94: a jump, call or return leaves `PC` at its target; a skip leaves `PC + 4` when taken and `PC + 2` when
not; every other instruction that completes leaves `PC + 2`, modulo 2^16. The `PC` that `CALL` and the
skips read is the address of the instruction itself (the skips' conditions and the targets are
general knowledge and decision D15, notes/assumptions/15.md, 23.md; the stack's layout is decision
D14, notes/assumptions/14.md; the sums of `PC` are D13, notes/assumptions/13.md). -/
def Obligations.PcIsTargetOrAdvances : Prop :=
  ∀ (i : Instr) (s t : State), exec i s = .next t →
    match i with
    | .jpNnn nnn => t.pc.toNat = nnn.toNat
    | .callNnn nnn => t.pc.toNat = nnn.toNat ∧
        ∃ j : Fin 16, j.val = s.sp.val ∧ t.stackEntry j = s.pc + 2#16
    | .jpV0Nnn nnn => t.pc.toNat = (nnn.toNat + (s.reg 0).toNat) % 2 ^ 16
    | .ret => ∃ j : Fin 16, j.val + 1 = s.sp.val ∧ t.pc = s.stackEntry j
    | _ => t.pc.toNat = (s.pc.toNat + if skipTaken i s then 4 else 2) % 2 ^ 16

/-- R187, R98: each instruction has at most one fault condition; these are all of them, and the wait of
`Fx0A` (decisions D11 and D12, notes/assumptions/12.md; that `SP` counts up to 16 is D14,
notes/assumptions/14.md; the wait as an outcome is the model's choice, notes/assumptions/16.md). R187
marks this as derived; that `Dxyn` with `n = 0` never faults is decision D24 (notes/assumptions/21.md),
and that the key index tested is `V[x]`, and the sprite `n` bytes at `I`, is general knowledge G10 and
G11 (notes/assumptions/23.md). -/
def Obligations.ExecFaultsExactlyOnTheseConditions : Prop :=
  ∀ (i : Instr) (s : State) (f : Fault), exec i s = .fault f ↔
    ((∃ nnn, i = .callNnn nnn) ∧ s.sp = 16 ∧ f = .stackOverflow) ∨
    (i = .ret ∧ s.sp = 0 ∧ f = .stackUnderflow) ∨
    ((∃ x y n, i = .drwVxVyN x y n ∧ 0 < n.val ∧ 0xFFF < s.i.toNat + n.val - 1) ∧
      f = .boundsViolation (max s.i.toNat 0x1000)) ∨
    ((∃ x, i = .ldBVx x) ∧ 0xFFF < s.i.toNat + 2 ∧ f = .boundsViolation (max s.i.toNat 0x1000)) ∨
    ((∃ x, (i = .ldMemVx x ∨ i = .ldVxMem x) ∧ 0xFFF < s.i.toNat + x.val) ∧
      f = .boundsViolation (max s.i.toNat 0x1000)) ∨
    (∃ x, (i = .skpVx x ∨ i = .sknpVx x) ∧ 15 < (s.reg x).toNat ∧
      f = .boundsViolation (s.reg x).toNat) ∨
    ((∃ x, i = .ldVxK x) ∧ (∀ k : Key, s.key k.val = false) ∧ f = .keyWait)

/-- R33 (d), R26: nothing the program does depends on `ST`: two states that differ in it step to the same
outcome but for it. -/
def Obligations.SoundTimerIsUnobservable : Prop :=
  ∀ s s' : State, SameButSound s s' → OutcomesAgree SameButSound (step s) (step s')

/-- R27, R33 (a): nothing depends on the stack slots at or above `SP`: two states that differ in them only
step to the same outcome but for such slots (decision D14, notes/assumptions/14.md). -/
def Obligations.DeadStackSlotsAreUnobservable : Prop :=
  ∀ s s' : State, SameButDeadSlots s s' → OutcomesAgree SameButDeadSlots (step s) (step s')

/-! ## Control flow (43_control_flow.md) -/

/-- R120: `SYS` does nothing but advance `PC`. That `PC` advances is R120's inference. -/
def Obligations.SysOnlyAdvances : Prop :=
  ∀ (nnn : Addr12) (s : State), ∃ t, exec (.sysNnn nnn) s = .next t ∧ t.pc = s.pc + 2#16 ∧
    OnlyPcChanges s t

/-- R122, R124: `JP` goes to `nnn`, `JP V0` to `nnn + V0` without a mask; nothing else changes (the meanings are
general knowledge G5 and decision D15, notes/assumptions/15.md, 23.md). -/
def Obligations.JumpsGoToTheirTargets : Prop :=
  ∀ (nnn : Addr12) (s : State),
    (∃ t, exec (.jpNnn nnn) s = .next t ∧ t.pc.toNat = nnn.toNat ∧ OnlyPcChanges s t) ∧
    (∃ t, exec (.jpV0Nnn nnn) s = .next t ∧ t.pc.toNat = nnn.toNat + (s.reg 0).toNat ∧
      OnlyPcChanges s t)

/-- R123: `CALL` pushes `PC + 2` and jumps, with `SP` below 16; at 16 it faults (the layout is decision
D14, notes/assumptions/14.md). That the target is `nnn` is general knowledge G5
(notes/assumptions/23.md). -/
def Obligations.CallPushesReturnAddress : Prop :=
  ∀ (nnn : Addr12) (s : State),
    (∀ j : Fin 16, s.sp.val = j.val → ∃ t, exec (.callNnn nnn) s = .next t ∧
      t.pc.toNat = nnn.toNat ∧ t.sp.val = s.sp.val + 1 ∧ t.stackEntry j = s.pc + 2#16 ∧
      (∀ k, k ≠ j → t.stackEntry k = s.stackEntry k) ∧ SameRegsExcept [] s t ∧ t.i = s.i ∧
      SameMemory s t ∧ SameTimers s t ∧ SameDisplay s t ∧ SameInputs s t) ∧
    (s.sp.val = 16 → exec (.callNnn nnn) s = .fault .stackOverflow)

/-- R121: `RET` pops `PC` and leaves the popped slot as it is, with `SP` above 0; at 0 it faults
(decision D14, notes/assumptions/14.md). That `PC` is the popped value itself is R121's inference, with
D14. -/
def Obligations.RetPopsReturnAddress : Prop :=
  ∀ s : State,
    (∀ j : Fin 16, s.sp.val = j.val + 1 → ∃ t, exec .ret s = .next t ∧ t.pc = s.stackEntry j ∧
      t.sp.val = j.val ∧ t.stack = s.stack ∧ SameRegsExcept [] s t ∧ t.i = s.i ∧ SameMemory s t ∧
      SameTimers s t ∧ SameDisplay s t ∧ SameInputs s t) ∧
    (s.sp.val = 0 → exec .ret s = .fault .stackUnderflow)

/-- R182: from an empty stack 16 calls succeed, whatever their targets, and the 17th faults; a step that
raises `StackOverflow` leaves all 16 entries, `SP` and `PC` unchanged, as every other element. That 16
calls succeed is R123 with `SP` as a count (decision D14, notes/assumptions/14.md), and that every other
element is unchanged is decision D6 (notes/assumptions/8.md). That `2nnn` is the call is general
knowledge G5 (notes/assumptions/23.md). -/
def Obligations.SixteenCallsSucceedAndSeventeenthFaults : Prop :=
  ∀ (s : State) (targets : List Addr12), s.sp.val = 0 →
    (targets.length ≤ 16 → ∃ t, callAll s targets = .next t ∧
      t.sp.val = targets.length ∧
      ∀ nnn, targets.length = 16 → exec (.callNnn nnn) t = .fault .stackOverflow) ∧
    (16 < targets.length → callAll s targets = .fault .stackOverflow) ∧
    ∀ (u : State) (nnn : Addr12), fetchDecode u = .ok (.callNnn nnn) →
      ((stepReport u).result = .fault .stackOverflow ↔ u.sp.val = 16) ∧
      (u.sp.val = 16 → (stepReport u).state = u)

/-- R121, R123 (95_test_vectors.md S6): a `CALL` followed by a `RET` comes back behind the `CALL`, with
the stack pointer as before (that the pushed value is `PC + 2` is decision D14,
notes/assumptions/14.md). That `2nnn` is the call is general knowledge G5 (notes/assumptions/23.md). -/
def Obligations.CallThenRetReturnsBehindCall : Prop :=
  ∀ (nnn : Addr12) (s t : State), exec (.callNnn nnn) s = .next t →
    ∃ u, exec .ret t = .next u ∧ u.pc = s.pc + 2#16 ∧ u.sp = s.sp

/-! ## Skips (44_skip.md, 47_input.md) -/

/-- R130 to R133: the four comparing skips (their conditions are general knowledge G6,
notes/assumptions/23.md). -/
def Obligations.ComparingSkipsSkipOnTheirCondition : Prop :=
  ∀ (x y : Reg) (kk : Byte) (s : State),
    (∃ t, exec (.seVxKk x kk) s = .next t ∧ OnlyPcChanges s t ∧
      t.pc = s.pc + if s.reg x = kk then 4#16 else 2#16) ∧
    (∃ t, exec (.sneVxKk x kk) s = .next t ∧ OnlyPcChanges s t ∧
      t.pc = s.pc + if s.reg x ≠ kk then 4#16 else 2#16) ∧
    (∃ t, exec (.seVxVy x y) s = .next t ∧ OnlyPcChanges s t ∧
      t.pc = s.pc + if s.reg x = s.reg y then 4#16 else 2#16) ∧
    (∃ t, exec (.sneVxVy x y) s = .next t ∧ OnlyPcChanges s t ∧
      t.pc = s.pc + if s.reg x ≠ s.reg y then 4#16 else 2#16)

/-- R160, R161: the key skips test the latch bit of key `V[x]`, and fault when `V[x]` is above 15 (general
knowledge G10 and decision D12, notes/assumptions/12.md, 23.md). -/
def Obligations.KeySkipsTestTheLatch : Prop :=
  ∀ (x : Reg) (s : State),
    ((s.reg x).toNat ≤ 15 →
      (∃ t, exec (.skpVx x) s = .next t ∧ OnlyPcChanges s t ∧
        t.pc = s.pc + if s.key (s.reg x).toNat = true then 4#16 else 2#16) ∧
      (∃ t, exec (.sknpVx x) s = .next t ∧ OnlyPcChanges s t ∧
        t.pc = s.pc + if s.key (s.reg x).toNat = false then 4#16 else 2#16)) ∧
    (15 < (s.reg x).toNat →
      exec (.skpVx x) s = .fault (.boundsViolation (s.reg x).toNat) ∧
      exec (.sknpVx x) s = .fault (.boundsViolation (s.reg x).toNat))

/-- R162: `Fx0A` with some key down completes at once with the lowest pressed key in `V[x]`; with none down
it stalls (general knowledge G10 and decision D16, notes/assumptions/16.md, 23.md). -/
def Obligations.WaitKeyTakesLowestPressedKey : Prop :=
  ∀ (x : Reg) (s : State),
    (∀ k : Key, s.key k.val = true → (∀ j : Key, j.val < k.val → s.key j.val = false) →
      ∃ t, exec (.ldVxK x) s = .next t ∧ (t.reg x).toNat = k.val ∧ t.pc = s.pc + 2#16 ∧
        OnlyRegsChange [x] s t) ∧
    ((∀ k : Key, s.key k.val = false) → exec (.ldVxK x) s = .fault .keyWait)

/-! ## Arithmetic, logic and shifts (41_arithmetic.md, 42_logic_shift.md) -/

/-- R100, R101: load and add an immediate, with no flag (general knowledge G7, notes/assumptions/23.md).
That neither sets a flag is also R22's inference. -/
def Obligations.ImmediateLoadAndAddSetNoFlag : Prop :=
  ∀ (x : Reg) (kk : Byte) (s : State),
    (∃ t, exec (.ldVxKk x kk) s = .next t ∧ t.reg x = kk ∧ t.pc = s.pc + 2#16 ∧
      OnlyRegsChange [x] s t) ∧
    (∃ t, exec (.addVxKk x kk) s = .next t ∧
      (t.reg x).toNat = ((s.reg x).toNat + kk.toNat) % 256 ∧ t.pc = s.pc + 2#16 ∧
      OnlyRegsChange [x] s t)

/-- R110 to R113: move, OR, AND and XOR, bit by bit, with no flag (general knowledge G2,
notes/assumptions/23.md). That none sets a flag is also R22's inference. -/
def Obligations.LogicActsBitwiseAndSetsNoFlag : Prop :=
  ∀ (x y : Reg) (s : State),
    (∃ t, exec (.ldVxVy x y) s = .next t ∧ t.reg x = s.reg y ∧ t.pc = s.pc + 2#16 ∧
      OnlyRegsChange [x] s t) ∧
    (∃ t, exec (.orVxVy x y) s = .next t ∧
      (∀ b, (t.reg x).getLsbD b = ((s.reg x).getLsbD b || (s.reg y).getLsbD b)) ∧ t.pc = s.pc + 2#16 ∧
      OnlyRegsChange [x] s t) ∧
    (∃ t, exec (.andVxVy x y) s = .next t ∧
      (∀ b, (t.reg x).getLsbD b = ((s.reg x).getLsbD b && (s.reg y).getLsbD b)) ∧ t.pc = s.pc + 2#16 ∧
      OnlyRegsChange [x] s t) ∧
    (∃ t, exec (.xorVxVy x y) s = .next t ∧
      (∀ b, (t.reg x).getLsbD b = ((s.reg x).getLsbD b ^^ (s.reg y).getLsbD b)) ∧ t.pc = s.pc + 2#16 ∧
      OnlyRegsChange [x] s t)

/-- R102, R106, R107: the 9-bit sum modulo 256 and its carry; with `x = 0xF` the carry survives (decision D7,
notes/assumptions/9.md). -/
def Obligations.AddSetsSumAndCarry : Prop :=
  ∀ (x y : Reg) (s : State), ∃ t, exec (.addVxVy x y) s = .next t ∧
    (x ≠ vf → (t.reg x).toNat = ((s.reg x).toNat + (s.reg y).toNat) % 256) ∧
    (t.reg vf).toNat = (if (s.reg x).toNat + (s.reg y).toNat > 255 then 1 else 0) ∧
    t.pc = s.pc + 2#16 ∧ OnlyRegsChange [x, vf] s t

/-- R103, R104, R106, R107: the two differences modulo 256 and the complement of their borrow; with
`x = 0xF` the flag survives (decision D7, notes/assumptions/9.md). -/
def Obligations.SubtractionsSetDifferenceAndNoBorrow : Prop :=
  ∀ (x y : Reg) (s : State),
    (∃ t, exec (.subVxVy x y) s = .next t ∧
      (x ≠ vf → ((t.reg x).toNat : Int) = ((s.reg x).toNat - (s.reg y).toNat : Int) % 256) ∧
      (t.reg vf).toNat = (if (s.reg x).toNat < (s.reg y).toNat then 0 else 1) ∧ t.pc = s.pc + 2#16 ∧
      OnlyRegsChange [x, vf] s t) ∧
    (∃ t, exec (.subnVxVy x y) s = .next t ∧
      (x ≠ vf → ((t.reg x).toNat : Int) = ((s.reg y).toNat - (s.reg x).toNat : Int) % 256) ∧
      (t.reg vf).toNat = (if (s.reg y).toNat < (s.reg x).toNat then 0 else 1) ∧ t.pc = s.pc + 2#16 ∧
      OnlyRegsChange [x, vf] s t)

/-- R114, R115, R106: the shifts by one of `V[x]`, `V[y]` unused, and the bit shifted out in `VF`; with
`x = 0xF` the flag survives (decision D7, notes/assumptions/9.md). -/
def Obligations.ShiftsMoveByOneAndKeepTheBitOut : Prop :=
  ∀ (x y : Reg) (s : State),
    (∃ t, exec (.shrVx x y) s = .next t ∧ (x ≠ vf → (t.reg x).toNat = (s.reg x).toNat / 2) ∧
      (t.reg vf).toNat = (s.reg x).toNat % 2 ∧ t.pc = s.pc + 2#16 ∧ OnlyRegsChange [x, vf] s t) ∧
    (∃ t, exec (.shlVx x y) s = .next t ∧ (x ≠ vf → (t.reg x).toNat = (s.reg x).toNat * 2 % 256) ∧
      (t.reg vf).toNat = (s.reg x).toNat / 128 ∧ t.pc = s.pc + 2#16 ∧ OnlyRegsChange [x, vf] s t)

/-- R105, R41: a fresh free byte masked with `kk`; the next draw is another one (general knowledge G7 and
decision D17, notes/assumptions/1.md). It holds for every value of the byte. -/
def Obligations.RndMasksAFreshByte : Prop :=
  ∀ (x : Reg) (kk : Byte) (s : State), ∃ t, exec (.rndVxKk x kk) s = .next t ∧
    (∀ b, (t.reg x).getLsbD b = ((Config.rnd s.rndDraws).getLsbD b && kk.getLsbD b)) ∧
    t.rndDraws = s.rndDraws + 1 ∧ t.pc = s.pc + 2#16 ∧ SameRegsExcept [x] s t ∧ t.i = s.i ∧
    SameMemory s t ∧ SameStack s t ∧ SameTimers s t ∧ SameDisplay s t ∧ t.keys = s.keys

/-! ## Index, memory and timers (45_memory_index.md, 46_timer.md) -/

/-- R140, R141, R142: the three writes of `I`, none with a flag (general knowledge G8 and decisions D9, D10,
notes/assumptions/10.md, 11.md, 23.md). -/
def Obligations.IndexInstructionsSetI : Prop :=
  ∀ (nnn : Addr12) (x : Reg) (s : State),
    (∃ t, exec (.ldINnn nnn) s = .next t ∧ t.i.toNat = nnn.toNat ∧ t.pc = s.pc + 2#16 ∧
      SameRegsExcept [] s t ∧ SameMemory s t ∧ SameStack s t ∧ SameTimers s t ∧ SameDisplay s t ∧
      SameInputs s t) ∧
    (∃ t, exec (.addIVx x) s = .next t ∧ t.i.toNat = (s.i.toNat + (s.reg x).toNat) % 2 ^ 16 ∧
      t.pc = s.pc + 2#16 ∧ SameRegsExcept [] s t ∧ SameMemory s t ∧ SameStack s t ∧ SameTimers s t ∧
      SameDisplay s t ∧ SameInputs s t) ∧
    (∃ t, exec (.ldFVx x) s = .next t ∧ t.i.toNat = 0x050 + 5 * (s.reg x).toNat ∧ t.pc = s.pc + 2#16 ∧
      SameRegsExcept [] s t ∧ SameMemory s t ∧ SameStack s t ∧ SameTimers s t ∧ SameDisplay s t ∧
      SameInputs s t)

/-- R143: the three decimal digits of `V[x]` at `I`, `I+1`, `I+2`, or a fault with nothing written
(decision D11, notes/assumptions/12.md). That the digits may land anywhere in memory is decision D23
(notes/assumptions/29.md). -/
def Obligations.BcdStoresThreeDigits : Prop :=
  ∀ (x : Reg) (s : State),
    (s.mem.wf → s.i.toNat + 2 ≤ 0xFFF → ∃ t, exec (.ldBVx x) s = .next t ∧
      (t.mem.read (s.effAddr 0)).toNat = (s.reg x).toNat / 100 ∧
      (t.mem.read (s.effAddr 1)).toNat = (s.reg x).toNat / 10 % 10 ∧
      (t.mem.read (s.effAddr 2)).toNat = (s.reg x).toNat % 10 ∧
      SameMemoryOutside (s.effAddr 0) 3 s t ∧ t.pc = s.pc + 2#16 ∧ SameRegsExcept [] s t ∧ t.i = s.i ∧
      SameStack s t ∧ SameTimers s t ∧ SameDisplay s t ∧ SameInputs s t) ∧
    (0xFFF < s.i.toNat + 2 → exec (.ldBVx x) s = .fault (.boundsViolation (max s.i.toNat 0x1000)))

/-- R144: `V[0]` to `V[x]` at `I` to `I + x`, `I` advanced or not by the open parameter, or a fault with
nothing written (decisions D8, D11, notes/assumptions/2.md, 12.md). It holds for both values of the
parameter. That the bytes may land anywhere in memory is decision D23 (notes/assumptions/29.md). -/
def Obligations.BlockStoreWritesRegisters : Prop :=
  ∀ (x : Reg) (s : State),
    (s.mem.wf → s.i.toNat + x.val ≤ 0xFFF → ∃ t, exec (.ldMemVx x) s = .next t ∧
      (∀ j : Reg, j.val ≤ x.val → t.mem.read (s.effAddr j.val) = s.reg j) ∧
      SameMemoryOutside (s.effAddr 0) (x.val + 1) s t ∧
      t.i.toNat = (if Config.blockXferAdvancesI then (s.i.toNat + x.val + 1) % 2 ^ 16
        else s.i.toNat) ∧
      t.pc = s.pc + 2#16 ∧ SameRegsExcept [] s t ∧ SameStack s t ∧ SameTimers s t ∧ SameDisplay s t ∧
      SameInputs s t) ∧
    (0xFFF < s.i.toNat + x.val →
      exec (.ldMemVx x) s = .fault (.boundsViolation (max s.i.toNat 0x1000)))

/-- R145: the bytes at `I` to `I + x` into `V[0]` to `V[x]`, the registers above unchanged, `I` as for R144, or
a fault with nothing written (decisions D8, D11, notes/assumptions/2.md, 12.md). -/
def Obligations.BlockLoadReadsRegisters : Prop :=
  ∀ (x : Reg) (s : State),
    (s.i.toNat + x.val ≤ 0xFFF → ∃ t, exec (.ldVxMem x) s = .next t ∧
      (∀ j : Reg, t.reg j = if j.val ≤ x.val then s.mem.read (s.effAddr j.val) else s.reg j) ∧
      t.i.toNat = (if Config.blockXferAdvancesI then (s.i.toNat + x.val + 1) % 2 ^ 16
        else s.i.toNat) ∧
      t.pc = s.pc + 2#16 ∧ SameMemory s t ∧ SameStack s t ∧ SameTimers s t ∧ SameDisplay s t ∧
      SameInputs s t) ∧
    (0xFFF < s.i.toNat + x.val →
      exec (.ldVxMem x) s = .fault (.boundsViolation (max s.i.toNat 0x1000)))

/-- R53: a fetch reads the byte at `PC` as the high byte of the opcode and the one above it as the low byte; so the
image of a program is a big-endian stream of opcodes; and two register bytes stored by `Fx55` are the
word a fetch at their address reads, the byte at the lower address the high one, with nothing done
in between (R64). -/
def Obligations.StoredWordIsFetchedBigEndian : Prop :=
  (∀ s : State, s.pc.toNat ≤ 0xFFE → ∃ op, fetch s = .ok op ∧
    opHighByte op = s.mem.read s.pc.toNat ∧ opLowByte op = s.mem.read (s.pc.toNat + 1)) ∧
  (∀ (s t u : State) (bytes : List Byte) (j : Nat) (hi lo : Byte), s.mem.wf → s.load bytes = some t →
    bytes[j]? = some hi → bytes[j + 1]? = some lo → u.mem = t.mem → u.pc.toNat = 0x200 + j →
    ∃ op, fetch u = .ok op ∧ opHighByte op = hi ∧ opLowByte op = lo) ∧
  ∀ (x j k : Reg) (s t : State), s.mem.wf → exec (.ldMemVx x) s = .next t → k.val ≤ x.val →
    k.val = j.val + 1 → t.pc.toNat = s.i.toNat + j.val →
    ∃ op, fetch t = .ok op ∧ op.toNat = 256 * (s.reg j).toNat + (s.reg k).toNat

/-- R150, R151, R152: the moves between a register and a timer, before the tick of the step (general
knowledge G9, notes/assumptions/23.md). That the tick comes after them is decision D5
(notes/assumptions/7.md). -/
def Obligations.TimerMovesCopyTheByte : Prop :=
  ∀ (x : Reg) (s : State),
    (∃ t, exec (.ldVxDt x) s = .next t ∧ t.reg x = s.dt ∧ t.pc = s.pc + 2#16 ∧ OnlyRegsChange [x] s t) ∧
    (∃ t, exec (.ldDtVx x) s = .next t ∧ t.dt = s.reg x ∧ t.st = s.st ∧ t.pc = s.pc + 2#16 ∧
      SameRegsExcept [] s t ∧ t.i = s.i ∧ SameMemory s t ∧ SameStack s t ∧ SameDisplay s t ∧
      SameInputs s t) ∧
    (∃ t, exec (.ldStVx x) s = .next t ∧ t.st = s.reg x ∧ t.dt = s.dt ∧ t.pc = s.pc + 2#16 ∧
      SameRegsExcept [] s t ∧ t.i = s.i ∧ SameMemory s t ∧ SameStack s t ∧ SameDisplay s t ∧
      SameInputs s t)

/-! ## Display (48_display.md) -/

/-- R170, R176: `CLS` clears all 2048 cells and sets `MOD`. -/
def Obligations.ClsClearsEveryCell : Prop :=
  ∀ s : State, ∃ t, exec .cls s = .next t ∧ (∀ c, t.fb.cell c = false) ∧ t.modified = true ∧
    t.pc = s.pc + 2#16 ∧ SameRegsExcept [] s t ∧ t.i = s.i ∧ SameMemory s t ∧ SameStack s t ∧
    SameTimers s t ∧ SameInputs s t

/-- R172 to R175: the blitter's pass over rows and columns toggles exactly the cells a set sprite bit targets,
and reports a collision exactly when one of them was lit before the draw. R174 says lit when it is
toggled; that each cell is toggled at most once, so that this is the same, is R175's inference. -/
def Obligations.DrawXorsSpriteAndReportsCollision : Prop :=
  ∀ (fb : FrameBuffer) (px py : Nat) (rows : List Byte), rows.length ≤ 15 →
    (∀ c, (SpriteCovers px py rows c → (fb.draw px py rows).fb.cell c = !fb.cell c) ∧
      (¬ SpriteCovers px py rows c → (fb.draw px py rows).fb.cell c = fb.cell c)) ∧
    ((fb.draw px py rows).collision = true ↔ ∃ c, SpriteCovers px py rows c ∧ fb.cell c = true)

/-- R175: within one draw two sprite pixels never target the same cell. The spec marks it as derived
from R172 and R173. -/
def Obligations.SpritePixelsTargetDistinctCells : Prop :=
  ∀ (px py r b r' b' : Nat), r < 15 → r' < 15 → b < 8 → b' < 8 →
    targetCell px py r b = targetCell px py r' b' → r = r' ∧ b = b'

/-- S5 of 95_test_vectors.md, R174: a sprite drawn twice at one place leaves the screen as it was, and
the second draw collides exactly when a set sprite bit targets a cell that was unlit at first. That each
cell is toggled at most once in a draw is R175's inference. -/
def Obligations.DrawingTwiceRestoresTheScreen : Prop :=
  ∀ (fb : FrameBuffer) (px py : Nat) (rows : List Byte), rows.length ≤ 15 →
    ((fb.draw px py rows).fb.draw px py rows).fb = fb ∧
    (((fb.draw px py rows).fb.draw px py rows).collision = true ↔
      ∃ c, SpriteCovers px py rows c ∧ fb.cell c = false)

/-- R171, R176: `DRW` draws the `n` bytes at `I` at column `V[x]`, row `V[y]`, writes the collision to
`VF` and sets `MOD`; a sprite that reaches above 0xFFF faults with no cell changed; with `n = 0` there
is no check (general knowledge G11 and decisions D11, D24, notes/assumptions/12.md, 21.md, 23.md). That
a cell lit before the draw is a cell lit when toggled is R175's inference. -/
def Obligations.DrwDrawsSpriteAndSetsCollision : Prop :=
  ∀ (x y : Reg) (n : Fin 16) (s : State),
    ((n.val = 0 ∨ s.i.toNat + n.val - 1 ≤ 0xFFF) →
      ∃ t rows, exec (.drwVxVyN x y n) s = .next t ∧
      rows.length = n.val ∧ (∀ r b, rows[r]? = some b → b = s.mem.read (s.effAddr r)) ∧
      (∀ c, (SpriteCovers (s.reg x).toNat (s.reg y).toNat rows c → t.fb.cell c = !s.fb.cell c) ∧
        (¬ SpriteCovers (s.reg x).toNat (s.reg y).toNat rows c → t.fb.cell c = s.fb.cell c)) ∧
      (t.reg vf = 1#8 ↔ ∃ c, SpriteCovers (s.reg x).toNat (s.reg y).toNat rows c ∧
        s.fb.cell c = true) ∧
      (t.reg vf = 1#8 ∨ t.reg vf = 0#8) ∧ t.modified = true ∧ t.pc = s.pc + 2#16 ∧
      SameRegsExcept [vf] s t ∧ t.i = s.i ∧ SameMemory s t ∧ SameStack s t ∧ SameTimers s t ∧
      SameInputs s t) ∧
    (0 < n.val → 0xFFF < s.i.toNat + n.val - 1 →
      exec (.drwVxVyN x y n) s = .fault (.boundsViolation (max s.i.toNat 0x1000)))
end

