-- ==== Sys2Proof/Laws/Decode.lean ====
section
/-! SUPPORT. The fields of a word put together by a format, and a word taken apart into its bytes: first as
numbers, then as fields. -/

namespace Sys2Proof

/-! ## As numbers (R71) -/

section
variable (op : Opcode)

theorem opHeader_toNat : (opHeader op).toNat = op.toNat / 4096 := by
  have := op.isLt
  simp [opHeader, Nat.shiftRight_eq_div_pow]
  omega

theorem opX_val : (opX op).val = op.toNat / 256 % 16 := by
  show (op.extractLsb' 8 4).toNat = _
  simp [Nat.shiftRight_eq_div_pow]

theorem opY_val : (opY op).val = op.toNat / 16 % 16 := by
  show (op.extractLsb' 4 4).toNat = _
  simp [Nat.shiftRight_eq_div_pow]

theorem opN_val : (opN op).val = op.toNat % 16 := by
  show (op.extractLsb' 0 4).toNat = _
  simp

theorem opKK_toNat : (opKK op).toNat = op.toNat % 256 := by simp [opKK]

theorem opNNN_toNat : (opNNN op).toNat = op.toNat % 4096 := by simp [opNNN]

theorem opHighByte_toNat : (opHighByte op).toNat = op.toNat / 256 := by
  have := op.isLt
  simp [opHighByte, Nat.shiftRight_eq_div_pow]
  omega

theorem opLowByte_toNat : (opLowByte op).toNat = op.toNat % 256 := by simp [opLowByte]

end

theorem append_toNat {m n : Nat} (a : BitVec m) (b : BitVec n) :
    (a ++ b).toNat = a.toNat * 2 ^ n + b.toNat := by
  rw [BitVec.toNat_append, ← Nat.shiftLeft_add_eq_or_of_lt b.isLt, Nat.shiftLeft_eq]

theorem joinBytes_toNat (hi lo : Byte) : (joinBytes hi lo).toNat = 256 * hi.toNat + lo.toNat := by
  have : (joinBytes hi lo).toNat = hi.toNat * 2 ^ 8 + lo.toNat := append_toNat hi lo
  omega

section
variable (h : BitVec 4) (x y n : Fin 16) (kk : Byte) (nnn : Addr12)

theorem formatNNN_toNat : (formatNNN h nnn).toNat = 4096 * h.toNat + nnn.toNat := by
  have : (formatNNN h nnn).toNat = h.toNat * 2 ^ 12 + nnn.toNat := append_toNat h nnn
  omega

theorem formatXKK_toNat : (formatXKK h x kk).toNat = 4096 * h.toNat + 256 * x.val + kk.toNat := by
  have h1 : (formatXKK h x kk).toNat = (h ++ (BitVec.ofFin x : BitVec 4)).toNat * 2 ^ 8 + kk.toNat :=
    append_toNat _ kk
  have h2 : (h ++ (BitVec.ofFin x : BitVec 4)).toNat = h.toNat * 2 ^ 4 + x.val := append_toNat h _
  omega

theorem formatXYN_toNat :
    (formatXYN h x y n).toNat = 4096 * h.toNat + 256 * x.val + 16 * y.val + n.val := by
  have h1 : (formatXYN h x y n).toNat =
      (h ++ (BitVec.ofFin x : BitVec 4) ++ (BitVec.ofFin y : BitVec 4)).toNat * 2 ^ 4 + n.val :=
    append_toNat _ _
  have h2 : (h ++ (BitVec.ofFin x : BitVec 4) ++ (BitVec.ofFin y : BitVec 4)).toNat =
      (h ++ (BitVec.ofFin x : BitVec 4)).toNat * 2 ^ 4 + y.val := append_toNat _ _
  have h3 : (h ++ (BitVec.ofFin x : BitVec 4)).toNat = h.toNat * 2 ^ 4 + x.val := append_toNat h _
  omega

/-! ## As fields -/

@[simp] theorem opHeader_formatNNN : opHeader (formatNNN h nnn) = h := by
  have := nnn.isLt
  apply BitVec.eq_of_toNat_eq
  rw [opHeader_toNat, formatNNN_toNat]
  omega

@[simp] theorem opNNN_formatNNN : opNNN (formatNNN h nnn) = nnn := by
  have := nnn.isLt
  apply BitVec.eq_of_toNat_eq
  rw [opNNN_toNat, formatNNN_toNat]
  omega

/-- The trailing nibble of a `SYS` word is that of its address. -/
@[simp] theorem opN_formatNNN : (opN (formatNNN h nnn)).val = nnn.toNat % 16 := by
  rw [opN_val, formatNNN_toNat]
  omega

@[simp] theorem opHeader_formatXKK : opHeader (formatXKK h x kk) = h := by
  have := kk.isLt
  apply BitVec.eq_of_toNat_eq
  rw [opHeader_toNat, formatXKK_toNat]
  omega

@[simp] theorem opX_formatXKK : opX (formatXKK h x kk) = x := by
  have := kk.isLt
  apply Fin.ext
  rw [opX_val, formatXKK_toNat]
  omega

@[simp] theorem opKK_formatXKK : opKK (formatXKK h x kk) = kk := by
  have := kk.isLt
  apply BitVec.eq_of_toNat_eq
  rw [opKK_toNat, formatXKK_toNat]
  omega

@[simp] theorem opHeader_formatXYN : opHeader (formatXYN h x y n) = h := by
  apply BitVec.eq_of_toNat_eq
  rw [opHeader_toNat, formatXYN_toNat]
  omega

@[simp] theorem opX_formatXYN : opX (formatXYN h x y n) = x := by
  apply Fin.ext
  rw [opX_val, formatXYN_toNat]
  omega

@[simp] theorem opY_formatXYN : opY (formatXYN h x y n) = y := by
  apply Fin.ext
  rw [opY_val, formatXYN_toNat]
  omega

@[simp] theorem opN_formatXYN : opN (formatXYN h x y n) = n := by
  apply Fin.ext
  rw [opN_val, formatXYN_toNat]
  omega

end

/-- A word is its two bytes joined again. -/
@[simp] theorem joinBytes_split (op : Opcode) : joinBytes (opHighByte op) (opLowByte op) = op := by
  apply BitVec.eq_of_toNat_eq
  rw [joinBytes_toNat, opHighByte_toNat, opLowByte_toNat]
  omega

/-- The high byte of two joined bytes is the first. -/
@[simp] theorem opHighByte_joinBytes (hi lo : Byte) : opHighByte (joinBytes hi lo) = hi := by
  have := lo.isLt
  apply BitVec.eq_of_toNat_eq
  rw [opHighByte_toNat, joinBytes_toNat]
  omega

/-- The low byte of two joined bytes is the second. -/
@[simp] theorem opLowByte_joinBytes (hi lo : Byte) : opLowByte (joinBytes hi lo) = lo := by
  have := lo.isLt
  apply BitVec.eq_of_toNat_eq
  rw [opLowByte_toNat, joinBytes_toNat]
  omega

/-! ## The masks of the opcode table (R80): which fields each keeps -/

theorem and_headerMask (op : Opcode) : op &&& 0xF000#16 = opHeader op ++ 0x000#12 := by
  refine BitVec.eq_of_getLsbD_eq fun i hi => ?_
  simp only [opHeader, BitVec.getLsbD_and, BitVec.getLsbD_append, BitVec.getLsbD_extractLsb']
  interval_cases i <;> simp

theorem and_nibbleMask (op : Opcode) :
    op &&& 0xF00F#16 = opHeader op ++ 0x00#8 ++ (BitVec.ofFin (opN op) : BitVec 4) := by
  refine BitVec.eq_of_getLsbD_eq fun i hi => ?_
  simp only [opHeader, opN, BitVec.getLsbD_and, BitVec.getLsbD_append, BitVec.getLsbD_extractLsb',
    BitVec.ofFin_toFin]
  interval_cases i <;> simp

theorem and_byteMask (op : Opcode) : op &&& 0xF0FF#16 = opHeader op ++ 0x0#4 ++ opKK op := by
  refine BitVec.eq_of_getLsbD_eq fun i hi => ?_
  simp only [opHeader, opKK, BitVec.getLsbD_and, BitVec.getLsbD_append, BitVec.getLsbD_extractLsb']
  interval_cases i <;> simp

end Sys2Proof
end

