-- ==== Sys2Proof/Laws/Display.lean ====
section
/-! SUPPORT. The frame buffer as 2048 cells, and the blitter pixel by pixel. -/

namespace Sys2Proof.Machine

/-- Frame buffers with equal cells are equal data. -/
theorem FrameBuffer.ext_cell {fb gb : FrameBuffer} (h : ∀ c, fb.cell c = gb.cell c) : fb = gb := by
  refine Vector.ext fun y hy => BitVec.eq_of_getLsbD_eq fun x hx => ?_
  have hc := h ⟨y * 64 + x, by omega⟩
  have h1 : (y * 64 + x) / 64 = y := by omega
  have h2 : (y * 64 + x) % 64 = x := by omega
  simpa [FrameBuffer.cell, h1, h2] using hc

/-- A toggle flips its cell and no other. -/
theorem FrameBuffer.cell_toggle (fb : FrameBuffer) (c d : Cell) :
    (fb.toggle c).cell d = if d = c then !fb.cell d else fb.cell d := by
  unfold FrameBuffer.toggle FrameBuffer.cell
  by_cases hrow : c.val / 64 = d.val / 64
  · have hx : d.val % 64 < 64 := Nat.mod_lt _ (by decide)
    have hset : (fb.set (c.val / 64) ((fb[c.val / 64]'(by omega)) ^^^ (1#64 <<< (c.val % 64)))
        (by omega))[d.val / 64]'(by omega) =
        (fb[d.val / 64]'(by omega)) ^^^ (1#64 <<< (c.val % 64)) := by
      simp [hrow]
    rw [hset]
    by_cases hcol : c.val % 64 = d.val % 64
    · have hdc : d = c := Fin.ext (by omega)
      subst hdc
      simp [hx]
    · have hdc : d ≠ c := fun e => hcol (by rw [e])
      have : ¬ (d.val % 64 - c.val % 64 = 0 ∧ c.val % 64 ≤ d.val % 64) := by omega
      simp only [BitVec.getLsbD_xor, BitVec.getLsbD_shiftLeft, BitVec.getLsbD_one, hdc, if_false]
      by_cases hlt : d.val % 64 < c.val % 64
      · simp [hlt]
      · have h0 : d.val % 64 - c.val % 64 ≠ 0 := by omega
        simp [h0]
  · have hdc : d ≠ c := fun e => hrow (by rw [e])
    simp [hrow, hdc]

@[simp] theorem FrameBuffer.cell_clear (c : Cell) : FrameBuffer.clear.cell c = false := by
  simp [FrameBuffer.cell, FrameBuffer.clear]

/-- One pixel: its cell flips when the bit is set, and the collision flag gathers the lit ones. -/
theorem Blit.plot_spec (p : Blit) (c d : Cell) (bit : Bool) :
    (p.plot c bit).fb.cell d = (if bit = true ∧ d = c then !p.fb.cell d else p.fb.cell d) ∧
    (p.plot c bit).collision = (p.collision || (bit && p.fb.cell c)) := by
  cases bit <;> simp [Blit.plot, FrameBuffer.cell_toggle]

@[simp] theorem targetCell_val (px py r b : Nat) :
    (targetCell px py r b).val = (py + r) % 32 * 64 + (px + b) % 64 := rfl

end Sys2Proof.Machine
end

