-- ==== Sys2Proof/Laws/Memory.lean ====
section
/-! SUPPORT. The laws of memory: read after write, the canonical form and its uniqueness, blocks. -/

namespace Sys2Proof.Machine

/-! ## One byte -/

/-- Bytes listed only above `a` leave `a` at its reset contents. -/
theorem Memory.read_of_lt {m : Memory} {a : Nat} (h : ∀ c ∈ m, a < c.1) : m.read a = resetByte a := by
  induction m with
  | nil => rfl
  | cons c m ih =>
    have hc : c.1 ≠ a := Nat.ne_of_gt (h c (by simp))
    simp [Memory.read, hc, ih fun d hd => h d (by simp [hd])]

/-- A read after a write: the byte written at its address, and every other address as before. -/
theorem Memory.read_write {m : Memory} (h : m.Pairwise (fun c d => c.1 < d.1)) (a b : Nat) (v : Byte) :
    (m.write a v).read b = if b = a then v else m.read b := by
  induction m with
  | nil =>
    by_cases hv : v = resetByte a
    · by_cases hb : b = a
      · subst hb; simp [Memory.write, Memory.read, hv]
      · simp [Memory.write, Memory.read, hv, hb]
    · simp [Memory.write, Memory.read, hv, eq_comm]
  | cons c m ih =>
    obtain ⟨k, w⟩ := c
    have hm := List.pairwise_cons.1 h
    unfold Memory.write
    split
    · rename_i hak
      by_cases hv : v = resetByte a
      · by_cases hb : b = a
        · subst hb
          have hk : k ≠ b := by omega
          have := Memory.read_of_lt (m := m) (a := b) fun c hc => Nat.lt_trans hak (hm.1 c hc)
          simp [hv, Memory.read, hk, this]
        · simp [hv, hb]
      · by_cases hb : b = a
        · simp [hv, Memory.read, hb]
        · have : a ≠ b := fun e => hb e.symm
          simp [hv, Memory.read, hb, this]
    · split
      · rename_i hak
        subst hak
        by_cases hv : v = resetByte a
        · by_cases hb : b = a
          · subst hb
            simp [hv, Memory.read_of_lt fun c hc => hm.1 c hc]
          · have : a ≠ b := fun e => hb e.symm
            simp [hv, Memory.read, hb, this]
        · by_cases hb : b = a
          · simp [hv, Memory.read, hb]
          · have : a ≠ b := fun e => hb e.symm
            simp [hv, Memory.read, hb, this]
      · rename_i h1 h2
        by_cases hkb : k = b
        · have : b ≠ a := by omega
          simp [Memory.read, hkb, this]
        · simp [Memory.read, hkb, ih hm.2]

/-! ## The canonical form -/

theorem Memory.wf_nil : Memory.wf [] := by simp [Memory.wf]

/-- A write lists no address but its own and those listed before. -/
theorem Memory.mem_write {m : Memory} {a : Nat} {v : Byte} {c : Host.Cell} (h : c ∈ m.write a v) :
    c ∈ m ∨ (c = (a, v) ∧ v ≠ resetByte a) := by
  induction m with
  | nil =>
    by_cases hv : v = resetByte a
    · simp [Memory.write, hv] at h
    · simp [Memory.write, hv] at h; exact .inr ⟨h, hv⟩
  | cons d m ih =>
    obtain ⟨k, w⟩ := d
    unfold Memory.write at h
    split at h
    · split at h
      · exact .inl h
      · rcases List.mem_cons.1 h with h | h
        · exact .inr ⟨h, ‹_›⟩
        · exact .inl h
    · split at h
      · split at h
        · exact .inl (List.mem_cons_of_mem _ h)
        · rcases List.mem_cons.1 h with h | h
          · exact .inr ⟨h, ‹_›⟩
          · exact .inl (List.mem_cons_of_mem _ h)
      · rcases List.mem_cons.1 h with h | h
        · exact .inl (by simp [h])
        · exact (ih h).imp_left (List.mem_cons_of_mem _)

/-- A write keeps the addresses strictly rising. -/
theorem Memory.rising_write {m : Memory} (h : m.Pairwise (fun c d => c.1 < d.1)) (a : Nat) (v : Byte) :
    (m.write a v).Pairwise (fun c d => c.1 < d.1) := by
  induction m with
  | nil => unfold Memory.write; split <;> simp
  | cons d m ih =>
    obtain ⟨k, w⟩ := d
    have hm := List.pairwise_cons.1 h
    unfold Memory.write
    split
    · rename_i hak
      split
      · exact h
      · refine List.pairwise_cons.2 ⟨fun c hc => ?_, h⟩
        rcases List.mem_cons.1 hc with rfl | hc
        · exact hak
        · exact Nat.lt_trans hak (hm.1 c hc)
    · split
      · rename_i hak
        subst hak
        split
        · exact hm.2
        · exact List.pairwise_cons.2 ⟨hm.1, hm.2⟩
      · rename_i h1 h2
        refine List.pairwise_cons.2 ⟨fun c hc => ?_, ih hm.2⟩
        rcases Memory.mem_write hc with hc | ⟨rfl, -⟩
        · exact hm.1 c hc
        · show k < a; omega

/-- A write inside `MEM` keeps the canonical form. -/
theorem Memory.wf_write {m : Memory} (h : m.wf) {a : Nat} (ha : a < Config.memSize) (v : Byte) :
    (m.write a v).wf := by
  refine ⟨Memory.rising_write h.1 a v, fun c hc => ?_⟩
  rcases Memory.mem_write hc with hc | ⟨rfl, hv⟩
  · exact h.2 c hc
  · exact ⟨ha, hv⟩

/-- Memories in canonical form that read alike are equal data. -/
theorem Memory.ext_of_wf {m n : Memory} (hm : m.wf) (hn : n.wf) (h : ∀ a, m.read a = n.read a) :
    m = n := by
  induction m generalizing n with
  | nil =>
    cases n with
    | nil => rfl
    | cons d n =>
      have h1 := h d.1
      simp [Memory.read] at h1
      exact absurd h1.symm (hn.2 d (by simp)).2
  | cons c m ih =>
    have hc := List.pairwise_cons.1 hm.1
    cases n with
    | nil =>
      have h1 := h c.1
      simp [Memory.read] at h1
      exact absurd h1 (hm.2 c (by simp)).2
    | cons d n =>
      have hd := List.pairwise_cons.1 hn.1
      have hk : c.1 = d.1 := by
        rcases Nat.lt_trichotomy c.1 d.1 with hlt | heq | hgt
        · have h1 := h c.1
          have h2 : Memory.read (d :: n) c.1 = resetByte c.1 :=
            Memory.read_of_lt fun e he => by
              rcases List.mem_cons.1 he with rfl | he
              · exact hlt
              · exact Nat.lt_trans hlt (hd.1 e he)
          rw [h2] at h1
          simp [Memory.read] at h1
          exact absurd h1 (hm.2 c (by simp)).2
        · exact heq
        · have h1 := h d.1
          have h2 : Memory.read (c :: m) d.1 = resetByte d.1 :=
            Memory.read_of_lt fun e he => by
              rcases List.mem_cons.1 he with rfl | he
              · exact hgt
              · exact Nat.lt_trans hgt (hc.1 e he)
          rw [h2] at h1
          simp [Memory.read] at h1
          exact absurd h1.symm (hn.2 d (by simp)).2
      have hv : c.2 = d.2 := by
        have h1 := h c.1
        simpa [Memory.read, hk] using h1
      have hcd : c = d := Prod.ext hk hv
      subst hcd
      congr 1
      refine ih ⟨hc.2, fun e he => hm.2 e (by simp [he])⟩ ⟨hd.2, fun e he => hn.2 e (by simp [he])⟩
        fun a => ?_
      by_cases ha : c.1 = a
      · subst ha
        rw [Memory.read_of_lt hc.1, Memory.read_of_lt hd.1]
      · have h1 := h a
        simpa [Memory.read, ha] using h1

/-! ## Blocks -/

@[simp] theorem Memory.readBlock_length (m : Memory) (a n : Nat) : (m.readBlock a n).length = n := by
  induction n generalizing a with
  | zero => rfl
  | succ n ih => simp [Memory.readBlock, ih]

/-- Byte `j` of a block read is the byte at `a + j`. -/
theorem Memory.readBlock_getElem? (m : Memory) (a n j : Nat) :
    (m.readBlock a n)[j]? = if j < n then some (m.read (a + j)) else none := by
  induction n generalizing a j with
  | zero => simp [Memory.readBlock]
  | succ n ih =>
    cases j with
    | zero => simp [Memory.readBlock]
    | succ j => simp [Memory.readBlock, ih, Nat.add_assoc, Nat.add_comm 1 j]

theorem Memory.rising_writeBlock {m : Memory} (h : m.Pairwise (fun c d => c.1 < d.1)) (a : Nat)
    (bs : List Byte) : (m.writeBlock a bs).Pairwise (fun c d => c.1 < d.1) := by
  induction bs generalizing m a with
  | nil => exact h
  | cons b bs ih => exact ih (Memory.rising_write h a b) (a + 1)

/-- A block written inside `MEM` keeps the canonical form. -/
theorem Memory.wf_writeBlock {m : Memory} (h : m.wf) {a : Nat} {bs : List Byte}
    (ha : a + bs.length ≤ Config.memSize) : (m.writeBlock a bs).wf := by
  induction bs generalizing m a with
  | nil => exact h
  | cons b bs ih =>
    simp only [List.length_cons] at ha
    exact ih (Memory.wf_write h (by omega) b) (by omega)

/-- A read after a block write: byte `j` of the block at `a + j`, and every other address as before. -/
theorem Memory.read_writeBlock {m : Memory} (h : m.Pairwise (fun c d => c.1 < d.1)) (a b : Nat)
    (bs : List Byte) :
    (m.writeBlock a bs).read b = if a ≤ b then bs.getD (b - a) (m.read b) else m.read b := by
  induction bs generalizing m a with
  | nil => simp [Memory.writeBlock]
  | cons v bs ih =>
    rw [Memory.writeBlock, ih (Memory.rising_write h a v), Memory.read_write h]
    rcases Nat.lt_trichotomy b a with hlt | rfl | hgt
    · have h1 : ¬ a + 1 ≤ b := by omega
      have h2 : ¬ a ≤ b := by omega
      have h3 : b ≠ a := by omega
      simp [h1, h2, h3]
    · simp
    · have h1 : a + 1 ≤ b := by omega
      have h2 : a ≤ b := by omega
      have h3 : b ≠ a := by omega
      obtain ⟨d, rfl⟩ : ∃ d, b = a + 1 + d := ⟨b - (a + 1), by omega⟩
      have h4 : a + 1 + d - (a + 1) = d := by omega
      have h5 : a + 1 + d - a = d + 1 := by omega
      simp [h1, h2, h3, h4, h5]

end Sys2Proof.Machine
end

