-- ==== Sys2Proof/Laws/State.lean ====
section
/-! SUPPORT. What each named update of the state does to each field: one lemma per field per update, so that no
later proof unfolds a record update. -/

namespace Sys2Proof.Machine

variable (s : State)

/-! ### `setReg` -/

@[simp] theorem State.setReg_i (r : Reg) (b : Byte) : (s.setReg r b).i = s.i := rfl
@[simp] theorem State.setReg_pc (r : Reg) (b : Byte) : (s.setReg r b).pc = s.pc := rfl
@[simp] theorem State.setReg_dt (r : Reg) (b : Byte) : (s.setReg r b).dt = s.dt := rfl
@[simp] theorem State.setReg_st (r : Reg) (b : Byte) : (s.setReg r b).st = s.st := rfl
@[simp] theorem State.setReg_sp (r : Reg) (b : Byte) : (s.setReg r b).sp = s.sp := rfl
@[simp] theorem State.setReg_stack (r : Reg) (b : Byte) : (s.setReg r b).stack = s.stack := rfl
@[simp] theorem State.setReg_mem (r : Reg) (b : Byte) : (s.setReg r b).mem = s.mem := rfl
@[simp] theorem State.setReg_fb (r : Reg) (b : Byte) : (s.setReg r b).fb = s.fb := rfl
@[simp] theorem State.setReg_modified (r : Reg) (b : Byte) : (s.setReg r b).modified = s.modified := rfl
@[simp] theorem State.setReg_keys (r : Reg) (b : Byte) : (s.setReg r b).keys = s.keys := rfl
@[simp] theorem State.setReg_rndDraws (r : Reg) (b : Byte) : (s.setReg r b).rndDraws = s.rndDraws := rfl

/-! ### `setIndex` -/

@[simp] theorem State.setIndex_v (w : Word) : (s.setIndex w).v = s.v := rfl
@[simp] theorem State.setIndex_i (w : Word) : (s.setIndex w).i = w := rfl
@[simp] theorem State.setIndex_pc (w : Word) : (s.setIndex w).pc = s.pc := rfl
@[simp] theorem State.setIndex_dt (w : Word) : (s.setIndex w).dt = s.dt := rfl
@[simp] theorem State.setIndex_st (w : Word) : (s.setIndex w).st = s.st := rfl
@[simp] theorem State.setIndex_sp (w : Word) : (s.setIndex w).sp = s.sp := rfl
@[simp] theorem State.setIndex_stack (w : Word) : (s.setIndex w).stack = s.stack := rfl
@[simp] theorem State.setIndex_mem (w : Word) : (s.setIndex w).mem = s.mem := rfl
@[simp] theorem State.setIndex_fb (w : Word) : (s.setIndex w).fb = s.fb := rfl
@[simp] theorem State.setIndex_modified (w : Word) : (s.setIndex w).modified = s.modified := rfl
@[simp] theorem State.setIndex_keys (w : Word) : (s.setIndex w).keys = s.keys := rfl
@[simp] theorem State.setIndex_rndDraws (w : Word) : (s.setIndex w).rndDraws = s.rndDraws := rfl
@[simp] theorem State.setIndex_reg (w : Word) (q : Reg) : (s.setIndex w).reg q = s.reg q := rfl

/-! ### `setPc` -/

@[simp] theorem State.setPc_v (w : Word) : (s.setPc w).v = s.v := rfl
@[simp] theorem State.setPc_i (w : Word) : (s.setPc w).i = s.i := rfl
@[simp] theorem State.setPc_pc (w : Word) : (s.setPc w).pc = w := rfl
@[simp] theorem State.setPc_dt (w : Word) : (s.setPc w).dt = s.dt := rfl
@[simp] theorem State.setPc_st (w : Word) : (s.setPc w).st = s.st := rfl
@[simp] theorem State.setPc_sp (w : Word) : (s.setPc w).sp = s.sp := rfl
@[simp] theorem State.setPc_stack (w : Word) : (s.setPc w).stack = s.stack := rfl
@[simp] theorem State.setPc_mem (w : Word) : (s.setPc w).mem = s.mem := rfl
@[simp] theorem State.setPc_fb (w : Word) : (s.setPc w).fb = s.fb := rfl
@[simp] theorem State.setPc_modified (w : Word) : (s.setPc w).modified = s.modified := rfl
@[simp] theorem State.setPc_keys (w : Word) : (s.setPc w).keys = s.keys := rfl
@[simp] theorem State.setPc_rndDraws (w : Word) : (s.setPc w).rndDraws = s.rndDraws := rfl
@[simp] theorem State.setPc_reg (w : Word) (q : Reg) : (s.setPc w).reg q = s.reg q := rfl

/-! ### `setDelay` -/

@[simp] theorem State.setDelay_v (b : Byte) : (s.setDelay b).v = s.v := rfl
@[simp] theorem State.setDelay_i (b : Byte) : (s.setDelay b).i = s.i := rfl
@[simp] theorem State.setDelay_pc (b : Byte) : (s.setDelay b).pc = s.pc := rfl
@[simp] theorem State.setDelay_dt (b : Byte) : (s.setDelay b).dt = b := rfl
@[simp] theorem State.setDelay_st (b : Byte) : (s.setDelay b).st = s.st := rfl
@[simp] theorem State.setDelay_sp (b : Byte) : (s.setDelay b).sp = s.sp := rfl
@[simp] theorem State.setDelay_stack (b : Byte) : (s.setDelay b).stack = s.stack := rfl
@[simp] theorem State.setDelay_mem (b : Byte) : (s.setDelay b).mem = s.mem := rfl
@[simp] theorem State.setDelay_fb (b : Byte) : (s.setDelay b).fb = s.fb := rfl
@[simp] theorem State.setDelay_modified (b : Byte) : (s.setDelay b).modified = s.modified := rfl
@[simp] theorem State.setDelay_keys (b : Byte) : (s.setDelay b).keys = s.keys := rfl
@[simp] theorem State.setDelay_rndDraws (b : Byte) : (s.setDelay b).rndDraws = s.rndDraws := rfl
@[simp] theorem State.setDelay_reg (b : Byte) (q : Reg) : (s.setDelay b).reg q = s.reg q := rfl

/-! ### `setSound` -/

@[simp] theorem State.setSound_v (b : Byte) : (s.setSound b).v = s.v := rfl
@[simp] theorem State.setSound_i (b : Byte) : (s.setSound b).i = s.i := rfl
@[simp] theorem State.setSound_pc (b : Byte) : (s.setSound b).pc = s.pc := rfl
@[simp] theorem State.setSound_dt (b : Byte) : (s.setSound b).dt = s.dt := rfl
@[simp] theorem State.setSound_st (b : Byte) : (s.setSound b).st = b := rfl
@[simp] theorem State.setSound_sp (b : Byte) : (s.setSound b).sp = s.sp := rfl
@[simp] theorem State.setSound_stack (b : Byte) : (s.setSound b).stack = s.stack := rfl
@[simp] theorem State.setSound_mem (b : Byte) : (s.setSound b).mem = s.mem := rfl
@[simp] theorem State.setSound_fb (b : Byte) : (s.setSound b).fb = s.fb := rfl
@[simp] theorem State.setSound_modified (b : Byte) : (s.setSound b).modified = s.modified := rfl
@[simp] theorem State.setSound_keys (b : Byte) : (s.setSound b).keys = s.keys := rfl
@[simp] theorem State.setSound_rndDraws (b : Byte) : (s.setSound b).rndDraws = s.rndDraws := rfl
@[simp] theorem State.setSound_reg (b : Byte) (q : Reg) : (s.setSound b).reg q = s.reg q := rfl

/-! ### `setMem` -/

@[simp] theorem State.setMem_v (m : Memory) : (s.setMem m).v = s.v := rfl
@[simp] theorem State.setMem_i (m : Memory) : (s.setMem m).i = s.i := rfl
@[simp] theorem State.setMem_pc (m : Memory) : (s.setMem m).pc = s.pc := rfl
@[simp] theorem State.setMem_dt (m : Memory) : (s.setMem m).dt = s.dt := rfl
@[simp] theorem State.setMem_st (m : Memory) : (s.setMem m).st = s.st := rfl
@[simp] theorem State.setMem_sp (m : Memory) : (s.setMem m).sp = s.sp := rfl
@[simp] theorem State.setMem_stack (m : Memory) : (s.setMem m).stack = s.stack := rfl
@[simp] theorem State.setMem_mem (m : Memory) : (s.setMem m).mem = m := rfl
@[simp] theorem State.setMem_fb (m : Memory) : (s.setMem m).fb = s.fb := rfl
@[simp] theorem State.setMem_modified (m : Memory) : (s.setMem m).modified = s.modified := rfl
@[simp] theorem State.setMem_keys (m : Memory) : (s.setMem m).keys = s.keys := rfl
@[simp] theorem State.setMem_rndDraws (m : Memory) : (s.setMem m).rndDraws = s.rndDraws := rfl
@[simp] theorem State.setMem_reg (m : Memory) (q : Reg) : (s.setMem m).reg q = s.reg q := rfl

/-! ### `setDisplay` -/

@[simp] theorem State.setDisplay_v (fb : FrameBuffer) : (s.setDisplay fb).v = s.v := rfl
@[simp] theorem State.setDisplay_i (fb : FrameBuffer) : (s.setDisplay fb).i = s.i := rfl
@[simp] theorem State.setDisplay_pc (fb : FrameBuffer) : (s.setDisplay fb).pc = s.pc := rfl
@[simp] theorem State.setDisplay_dt (fb : FrameBuffer) : (s.setDisplay fb).dt = s.dt := rfl
@[simp] theorem State.setDisplay_st (fb : FrameBuffer) : (s.setDisplay fb).st = s.st := rfl
@[simp] theorem State.setDisplay_sp (fb : FrameBuffer) : (s.setDisplay fb).sp = s.sp := rfl
@[simp] theorem State.setDisplay_stack (fb : FrameBuffer) : (s.setDisplay fb).stack = s.stack := rfl
@[simp] theorem State.setDisplay_mem (fb : FrameBuffer) : (s.setDisplay fb).mem = s.mem := rfl
@[simp] theorem State.setDisplay_fb (fb : FrameBuffer) : (s.setDisplay fb).fb = fb := rfl
@[simp] theorem State.setDisplay_modified (fb : FrameBuffer) : (s.setDisplay fb).modified = s.modified := rfl
@[simp] theorem State.setDisplay_keys (fb : FrameBuffer) : (s.setDisplay fb).keys = s.keys := rfl
@[simp] theorem State.setDisplay_rndDraws (fb : FrameBuffer) : (s.setDisplay fb).rndDraws = s.rndDraws := rfl
@[simp] theorem State.setDisplay_reg (fb : FrameBuffer) (q : Reg) : (s.setDisplay fb).reg q = s.reg q := rfl

/-! ### `setModified` -/

@[simp] theorem State.setModified_v (b : Bool) : (s.setModified b).v = s.v := rfl
@[simp] theorem State.setModified_i (b : Bool) : (s.setModified b).i = s.i := rfl
@[simp] theorem State.setModified_pc (b : Bool) : (s.setModified b).pc = s.pc := rfl
@[simp] theorem State.setModified_dt (b : Bool) : (s.setModified b).dt = s.dt := rfl
@[simp] theorem State.setModified_st (b : Bool) : (s.setModified b).st = s.st := rfl
@[simp] theorem State.setModified_sp (b : Bool) : (s.setModified b).sp = s.sp := rfl
@[simp] theorem State.setModified_stack (b : Bool) : (s.setModified b).stack = s.stack := rfl
@[simp] theorem State.setModified_mem (b : Bool) : (s.setModified b).mem = s.mem := rfl
@[simp] theorem State.setModified_fb (b : Bool) : (s.setModified b).fb = s.fb := rfl
@[simp] theorem State.setModified_modified (b : Bool) : (s.setModified b).modified = b := rfl
@[simp] theorem State.setModified_keys (b : Bool) : (s.setModified b).keys = s.keys := rfl
@[simp] theorem State.setModified_rndDraws (b : Bool) : (s.setModified b).rndDraws = s.rndDraws := rfl
@[simp] theorem State.setModified_reg (b : Bool) (q : Reg) : (s.setModified b).reg q = s.reg q := rfl

/-! ### `setKeys` -/

@[simp] theorem State.setKeys_v (ks : BitVec 16) : (s.setKeys ks).v = s.v := rfl
@[simp] theorem State.setKeys_i (ks : BitVec 16) : (s.setKeys ks).i = s.i := rfl
@[simp] theorem State.setKeys_pc (ks : BitVec 16) : (s.setKeys ks).pc = s.pc := rfl
@[simp] theorem State.setKeys_dt (ks : BitVec 16) : (s.setKeys ks).dt = s.dt := rfl
@[simp] theorem State.setKeys_st (ks : BitVec 16) : (s.setKeys ks).st = s.st := rfl
@[simp] theorem State.setKeys_sp (ks : BitVec 16) : (s.setKeys ks).sp = s.sp := rfl
@[simp] theorem State.setKeys_stack (ks : BitVec 16) : (s.setKeys ks).stack = s.stack := rfl
@[simp] theorem State.setKeys_mem (ks : BitVec 16) : (s.setKeys ks).mem = s.mem := rfl
@[simp] theorem State.setKeys_fb (ks : BitVec 16) : (s.setKeys ks).fb = s.fb := rfl
@[simp] theorem State.setKeys_modified (ks : BitVec 16) : (s.setKeys ks).modified = s.modified := rfl
@[simp] theorem State.setKeys_keys (ks : BitVec 16) : (s.setKeys ks).keys = ks := rfl
@[simp] theorem State.setKeys_rndDraws (ks : BitVec 16) : (s.setKeys ks).rndDraws = s.rndDraws := rfl
@[simp] theorem State.setKeys_reg (ks : BitVec 16) (q : Reg) : (s.setKeys ks).reg q = s.reg q := rfl

/-! ### `nextDraw` -/

@[simp] theorem State.nextDraw_v : s.nextDraw.v = s.v := rfl
@[simp] theorem State.nextDraw_i : s.nextDraw.i = s.i := rfl
@[simp] theorem State.nextDraw_pc : s.nextDraw.pc = s.pc := rfl
@[simp] theorem State.nextDraw_dt : s.nextDraw.dt = s.dt := rfl
@[simp] theorem State.nextDraw_st : s.nextDraw.st = s.st := rfl
@[simp] theorem State.nextDraw_sp : s.nextDraw.sp = s.sp := rfl
@[simp] theorem State.nextDraw_stack : s.nextDraw.stack = s.stack := rfl
@[simp] theorem State.nextDraw_mem : s.nextDraw.mem = s.mem := rfl
@[simp] theorem State.nextDraw_fb : s.nextDraw.fb = s.fb := rfl
@[simp] theorem State.nextDraw_modified : s.nextDraw.modified = s.modified := rfl
@[simp] theorem State.nextDraw_keys : s.nextDraw.keys = s.keys := rfl
@[simp] theorem State.nextDraw_rndDraws : s.nextDraw.rndDraws = s.rndDraws + 1 := rfl
@[simp] theorem State.nextDraw_reg (q : Reg) : s.nextDraw.reg q = s.reg q := rfl

/-! ### `advancePc` -/

@[simp] theorem State.advancePc_v : s.advancePc.v = s.v := rfl
@[simp] theorem State.advancePc_i : s.advancePc.i = s.i := rfl
@[simp] theorem State.advancePc_pc : s.advancePc.pc = s.pc + 2#16 := rfl
@[simp] theorem State.advancePc_dt : s.advancePc.dt = s.dt := rfl
@[simp] theorem State.advancePc_st : s.advancePc.st = s.st := rfl
@[simp] theorem State.advancePc_sp : s.advancePc.sp = s.sp := rfl
@[simp] theorem State.advancePc_stack : s.advancePc.stack = s.stack := rfl
@[simp] theorem State.advancePc_mem : s.advancePc.mem = s.mem := rfl
@[simp] theorem State.advancePc_fb : s.advancePc.fb = s.fb := rfl
@[simp] theorem State.advancePc_modified : s.advancePc.modified = s.modified := rfl
@[simp] theorem State.advancePc_keys : s.advancePc.keys = s.keys := rfl
@[simp] theorem State.advancePc_rndDraws : s.advancePc.rndDraws = s.rndDraws := rfl
@[simp] theorem State.advancePc_reg (q : Reg) : s.advancePc.reg q = s.reg q := rfl

/-! ### `jump` -/

@[simp] theorem State.jump_v (w : Word) : (s.jump w).v = s.v := rfl
@[simp] theorem State.jump_i (w : Word) : (s.jump w).i = s.i := rfl
@[simp] theorem State.jump_pc (w : Word) : (s.jump w).pc = w := rfl
@[simp] theorem State.jump_dt (w : Word) : (s.jump w).dt = s.dt := rfl
@[simp] theorem State.jump_st (w : Word) : (s.jump w).st = s.st := rfl
@[simp] theorem State.jump_sp (w : Word) : (s.jump w).sp = s.sp := rfl
@[simp] theorem State.jump_stack (w : Word) : (s.jump w).stack = s.stack := rfl
@[simp] theorem State.jump_mem (w : Word) : (s.jump w).mem = s.mem := rfl
@[simp] theorem State.jump_fb (w : Word) : (s.jump w).fb = s.fb := rfl
@[simp] theorem State.jump_modified (w : Word) : (s.jump w).modified = s.modified := rfl
@[simp] theorem State.jump_keys (w : Word) : (s.jump w).keys = s.keys := rfl
@[simp] theorem State.jump_rndDraws (w : Word) : (s.jump w).rndDraws = s.rndDraws := rfl
@[simp] theorem State.jump_reg (w : Word) (q : Reg) : (s.jump w).reg q = s.reg q := rfl

/-! ### `skipIf` -/

@[simp] theorem State.skipIf_v (taken : Bool) : (s.skipIf taken).v = s.v := rfl
@[simp] theorem State.skipIf_i (taken : Bool) : (s.skipIf taken).i = s.i := rfl
@[simp] theorem State.skipIf_pc (taken : Bool) : (s.skipIf taken).pc = s.pc + if taken then 4#16 else 2#16 := rfl
@[simp] theorem State.skipIf_dt (taken : Bool) : (s.skipIf taken).dt = s.dt := rfl
@[simp] theorem State.skipIf_st (taken : Bool) : (s.skipIf taken).st = s.st := rfl
@[simp] theorem State.skipIf_sp (taken : Bool) : (s.skipIf taken).sp = s.sp := rfl
@[simp] theorem State.skipIf_stack (taken : Bool) : (s.skipIf taken).stack = s.stack := rfl
@[simp] theorem State.skipIf_mem (taken : Bool) : (s.skipIf taken).mem = s.mem := rfl
@[simp] theorem State.skipIf_fb (taken : Bool) : (s.skipIf taken).fb = s.fb := rfl
@[simp] theorem State.skipIf_modified (taken : Bool) : (s.skipIf taken).modified = s.modified := rfl
@[simp] theorem State.skipIf_keys (taken : Bool) : (s.skipIf taken).keys = s.keys := rfl
@[simp] theorem State.skipIf_rndDraws (taken : Bool) : (s.skipIf taken).rndDraws = s.rndDraws := rfl
@[simp] theorem State.skipIf_reg (taken : Bool) (q : Reg) : (s.skipIf taken).reg q = s.reg q := rfl

/-! ### `setRegAndFlag` -/

@[simp] theorem State.setRegAndFlag_i (x : Reg) (b f : Byte) : (s.setRegAndFlag x b f).i = s.i := rfl
@[simp] theorem State.setRegAndFlag_pc (x : Reg) (b f : Byte) : (s.setRegAndFlag x b f).pc = s.pc := rfl
@[simp] theorem State.setRegAndFlag_dt (x : Reg) (b f : Byte) : (s.setRegAndFlag x b f).dt = s.dt := rfl
@[simp] theorem State.setRegAndFlag_st (x : Reg) (b f : Byte) : (s.setRegAndFlag x b f).st = s.st := rfl
@[simp] theorem State.setRegAndFlag_sp (x : Reg) (b f : Byte) : (s.setRegAndFlag x b f).sp = s.sp := rfl
@[simp] theorem State.setRegAndFlag_stack (x : Reg) (b f : Byte) : (s.setRegAndFlag x b f).stack = s.stack := rfl
@[simp] theorem State.setRegAndFlag_mem (x : Reg) (b f : Byte) : (s.setRegAndFlag x b f).mem = s.mem := rfl
@[simp] theorem State.setRegAndFlag_fb (x : Reg) (b f : Byte) : (s.setRegAndFlag x b f).fb = s.fb := rfl
@[simp] theorem State.setRegAndFlag_modified (x : Reg) (b f : Byte) : (s.setRegAndFlag x b f).modified = s.modified := rfl
@[simp] theorem State.setRegAndFlag_keys (x : Reg) (b f : Byte) : (s.setRegAndFlag x b f).keys = s.keys := rfl
@[simp] theorem State.setRegAndFlag_rndDraws (x : Reg) (b f : Byte) : (s.setRegAndFlag x b f).rndDraws = s.rndDraws := rfl

/-! ### `tick` -/

@[simp] theorem State.tick_v : s.tick.v = s.v := rfl
@[simp] theorem State.tick_i : s.tick.i = s.i := rfl
@[simp] theorem State.tick_pc : s.tick.pc = s.pc := rfl
@[simp] theorem State.tick_dt : s.tick.dt = tickByte s.dt := rfl
@[simp] theorem State.tick_st : s.tick.st = tickByte s.st := rfl
@[simp] theorem State.tick_sp : s.tick.sp = s.sp := rfl
@[simp] theorem State.tick_stack : s.tick.stack = s.stack := rfl
@[simp] theorem State.tick_mem : s.tick.mem = s.mem := rfl
@[simp] theorem State.tick_fb : s.tick.fb = s.fb := rfl
@[simp] theorem State.tick_modified : s.tick.modified = s.modified := rfl
@[simp] theorem State.tick_keys : s.tick.keys = s.keys := rfl
@[simp] theorem State.tick_rndDraws : s.tick.rndDraws = s.rndDraws := rfl
@[simp] theorem State.tick_reg (q : Reg) : s.tick.reg q = s.reg q := rfl

/-! ### `complete` -/

@[simp] theorem State.complete_v : s.complete.v = s.v := rfl
@[simp] theorem State.complete_i : s.complete.i = s.i := rfl
@[simp] theorem State.complete_pc : s.complete.pc = s.pc := rfl
@[simp] theorem State.complete_dt : s.complete.dt = tickByte s.dt := rfl
@[simp] theorem State.complete_st : s.complete.st = tickByte s.st := rfl
@[simp] theorem State.complete_sp : s.complete.sp = s.sp := rfl
@[simp] theorem State.complete_stack : s.complete.stack = s.stack := rfl
@[simp] theorem State.complete_mem : s.complete.mem = s.mem := rfl
@[simp] theorem State.complete_fb : s.complete.fb = s.fb := rfl
@[simp] theorem State.complete_modified : s.complete.modified = false := rfl
@[simp] theorem State.complete_keys : s.complete.keys = s.keys := rfl
@[simp] theorem State.complete_rndDraws : s.complete.rndDraws = s.rndDraws := rfl
@[simp] theorem State.complete_reg (q : Reg) : s.complete.reg q = s.reg q := rfl

/-! ### Registers -/

@[simp] theorem State.setReg_reg (r : Reg) (b : Byte) (q : Reg) :
    (s.setReg r b).reg q = if q = r then b else s.reg q := by
  by_cases h : q = r
  · subst h; simp [State.setReg, State.reg]
  · have : r.val ≠ q.val := fun e => h (Fin.ext e.symm)
    simp [State.setReg, State.reg, h, this]

@[simp] theorem State.setRegAndFlag_reg (x : Reg) (b f : Byte) (q : Reg) :
    (s.setRegAndFlag x b f).reg q = if q = vf then f else if q = x then b else s.reg q := by
  simp [State.setRegAndFlag]

/-- Registers are all of `v`. -/
theorem State.v_ext {s t : State} (h : ∀ r, t.reg r = s.reg r) : t.v = s.v := 
  Vector.ext fun i hi => h ⟨i, hi⟩

/-! ### Accessors that read one field -/

theorem State.key_eq (k : Nat) : s.key k = s.keys.getLsbD k := rfl

theorem State.effAddr_eq (j : Nat) : s.effAddr j = s.i.toNat + j := rfl

/-- A flag written is 0 or 1 (10_state.md R22). -/
@[simp] theorem flagByte_toNat (b : Bool) : (flagByte b).toNat = if b then 1 else 0 := by
  cases b <;> rfl

end Sys2Proof.Machine
end

