-- ==== Sys2Proof/Laws/Ops.lean ====
section
/-! SUPPORT. One law per shared operation, saying all it can do: the guards, the stack, the register blocks, the
fetch and the step. -/

namespace Sys2Proof.Machine

/-! ## Guards and faults -/

@[simp] theorem raise_eq (f : Fault) : raise f = .fault f := rfl

theorem rangeOk_iff {base : Word} {n : Nat} :
    rangeOk base n = true ↔ n = 0 ∨ base.toNat + n ≤ 0x1000 := by
  simp [rangeOk]

/-- A guarded access answers what is behind the guard, or the fault of its first address outside. -/
theorem guardRange_cases (base : Word) (n : Nat) (k : Result) :
    (rangeOk base n = true ∧ guardRange base n k = k) ∨
    (rangeOk base n = false ∧
      guardRange base n k = .fault (.boundsViolation (max base.toNat 0x1000))) := by
  cases h : rangeOk base n <;> simp [guardRange, h, firstOutside]

theorem guardRange_eq_next {base : Word} {n : Nat} {k : Result} {t : State} :
    guardRange base n k = .next t ↔ rangeOk base n = true ∧ k = .next t := by
  rcases guardRange_cases base n k with ⟨h, e⟩ | ⟨h, e⟩ <;> simp [h, e]

theorem guardRange_eq_fault {base : Word} {n : Nat} {t : State} {f : Fault} :
    guardRange base n (.next t) = .fault f ↔
      rangeOk base n = false ∧ f = .boundsViolation (max base.toNat 0x1000) := by
  rcases guardRange_cases base n (.next t) with ⟨h, e⟩ | ⟨h, e⟩ <;> simp [h, e, eq_comm]

theorem guardRange_ne_refused {base : Word} {n : Nat} {t : State} {r : Refusal} :
    guardRange base n (.next t) ≠ .refused r := by
  rcases guardRange_cases base n (.next t) with ⟨-, e⟩ | ⟨-, e⟩ <;> simp [e]

theorem guardKey_eq_next {k : Byte} {res : Result} {t : State} :
    guardKey k res = .next t ↔ k.toNat ≤ 15 ∧ res = .next t := by
  unfold guardKey; split <;> simp_all

theorem guardKey_eq_fault {k : Byte} {t : State} {f : Fault} :
    guardKey k (.next t) = .fault f ↔ 15 < k.toNat ∧ f = .boundsViolation k.toNat := by
  unfold guardKey; split <;> simp_all [eq_comm]

theorem guardKey_ne_refused {k : Byte} {t : State} {r : Refusal} :
    guardKey k (.next t) ≠ .refused r := by
  unfold guardKey; split <;> simp

/-! ## The call stack -/

/-- A push that succeeds writes slot `SP`, raises `SP` and changes nothing else. -/
theorem State.push_eq_some {s t : State} {w : Word} : s.push w = some t ↔
    ∃ h : s.sp.val < 16,
      t = { s with stack := s.stack.set s.sp.val w, sp := ⟨s.sp.val + 1, by omega⟩ } := by
  unfold State.push; split <;> simp_all [eq_comm]

theorem State.push_eq_none {s : State} {w : Word} : s.push w = none ↔ s.sp.val = 16 := by
  unfold State.push
  split
  · simp; omega
  · simp; omega

/-- A pop that succeeds reads the slot below `SP`, lowers `SP` and changes nothing else. -/
theorem State.pop_eq_some {s t : State} {w : Word} : s.pop = some (w, t) ↔
    ∃ h : 0 < s.sp.val, w = s.stack[s.sp.val - 1] ∧ t = { s with sp := ⟨s.sp.val - 1, by omega⟩ } := by
  unfold State.pop; split <;> simp_all [eq_comm]

theorem State.pop_eq_none {s : State} : s.pop = none ↔ s.sp.val = 0 := by
  unfold State.pop
  split
  · simp; omega
  · simp; omega

/-! ## Register blocks -/

@[simp] theorem State.regBlock_length (s : State) (x : Reg) : (s.regBlock x).length = x.val + 1 := by
  simp [State.regBlock]

/-- Byte `j` of the block is `V[j]`. -/
theorem State.regBlock_getElem? (s : State) (x : Reg) (j : Reg) (h : j.val ≤ x.val) :
    (s.regBlock x)[j.val]? = some (s.reg j) := by
  have : j.val < x.val + 1 := by omega
  simp [State.regBlock, this, State.reg]

/-- Loading registers from `V[j]` up writes those registers and no other. -/
theorem State.loadRegs_reg (s : State) (j : Nat) (bs : List Byte) (h : j + bs.length ≤ 16) (r : Reg) :
    (s.loadRegs j bs).reg r = if j ≤ r.val then bs.getD (r.val - j) (s.reg r) else s.reg r := by
  induction bs generalizing s j with
  | nil => simp [State.loadRegs]
  | cons b bs ih =>
    simp only [List.length_cons] at h
    rw [State.loadRegs, ih _ _ (by omega), State.setReg_reg]
    have hj : (Fin.ofNat 16 j).val = j := by simp [Fin.ofNat]; omega
    rcases Nat.lt_trichotomy r.val j with hlt | heq | hgt
    · have h1 : ¬ j + 1 ≤ r.val := by omega
      have h2 : ¬ j ≤ r.val := by omega
      have h3 : r ≠ Fin.ofNat 16 j := fun e => by rw [e, hj] at hlt; omega
      rw [if_neg h1, if_neg h2, if_neg h3]
    · have h3 : r = Fin.ofNat 16 j := Fin.ext (by rw [hj]; exact heq)
      have h1 : ¬ j + 1 ≤ r.val := by omega
      have h2 : j ≤ r.val := by omega
      rw [if_neg h1, if_pos h2, if_pos h3]
      simp [heq]
    · have h1 : j + 1 ≤ r.val := by omega
      have h2 : j ≤ r.val := by omega
      have h3 : r ≠ Fin.ofNat 16 j := fun e => by rw [e, hj] at hgt; omega
      obtain ⟨d, hd⟩ : ∃ d, r.val = j + 1 + d := ⟨r.val - (j + 1), by omega⟩
      have h4 : j + 1 + d - (j + 1) = d := by omega
      have h5 : j + 1 + d - j = d + 1 := by omega
      rw [if_pos h1, if_pos h2, if_neg h3, hd, h4, h5]
      simp

/-- Loading registers changes registers only. -/
theorem State.loadRegs_frame (s : State) (j : Nat) (bs : List Byte) :
    s.loadRegs j bs = { s with v := (s.loadRegs j bs).v } := by
  induction bs generalizing s j with
  | nil => rfl
  | cons b bs ih => rw [State.loadRegs, ih]; rfl

/-! ## The key latch -/

/-- The lowest key is pressed and no lower one is. -/
theorem State.lowestKey_eq_some {s : State} {k : Nat} : s.lowestKey = some k ↔
    k < 16 ∧ s.key k = true ∧ ∀ j, j < k → s.key j = false := by
  unfold State.lowestKey
  rw [List.find?_range_eq_some]
  simp [and_left_comm]

theorem State.lowestKey_eq_none {s : State} : s.lowestKey = none ↔ ∀ k, k < 16 → s.key k = false := by
  simp [State.lowestKey]

/-! ## The step -/

/-- A fetch reads the word at `PC`, or faults with the first address outside `MEM`. -/
theorem fetch_cases (s : State) :
    (s.pc.toNat ≤ 0xFFE ∧
      fetch s = .ok (joinBytes (s.mem.read s.pc.toNat) (s.mem.read (s.pc.toNat + 1)))) ∨
    (0xFFE < s.pc.toNat ∧ fetch s = .error (.boundsViolation (max s.pc.toNat 0x1000))) := by
  unfold fetch
  split
  · rename_i h
    rw [rangeOk_iff] at h
    exact .inl ⟨by omega, rfl⟩
  · rename_i h
    rw [rangeOk_iff] at h
    exact .inr ⟨by omega, rfl⟩

/-- Where the next state of a step comes from. -/
theorem step_eq_next {s t : State} : step s = .next t ↔
    ∃ i u, fetchDecode s = .ok i ∧ exec i s = .next u ∧ t = u.complete := by
  unfold step
  cases hf : fetchDecode s with
  | error f => simp
  | ok i =>
    cases he : exec i s <;> simp [he, eq_comm]

/-- Where the fault of a step comes from. -/
theorem step_eq_fault {s : State} {f : Fault} : step s = .fault f ↔
    fetchDecode s = .error f ∨ ∃ i, fetchDecode s = .ok i ∧ exec i s = .fault f := by
  unfold step
  cases hf : fetchDecode s with
  | error f => simp
  | ok i =>
    cases he : exec i s <;> simp [he]

/-- Fetching and decoding never wait. -/
theorem fetchDecode_ne_keyWait (s : State) : fetchDecode s ≠ .error .keyWait := by
  unfold fetchDecode
  rcases fetch_cases s with ⟨-, e⟩ | ⟨-, e⟩ <;> rw [e]
  · dsimp only
    split <;> simp
  · simp

/-- `Fx0A` takes the lowest pressed key, or waits. -/
theorem execLdVxK_cases (x : Reg) (s : State) :
    (∃ k, s.lowestKey = some k ∧
      execLdVxK x s = .next (s.setReg x (BitVec.ofNat 8 k)).advancePc) ∨
    (s.lowestKey = none ∧ execLdVxK x s = .fault .keyWait) := by
  cases h : s.lowestKey <;> simp [execLdVxK, h, stall]

/-- A run of one step more is a step, then the run. -/
theorem core_run_succ {k : Nat} {s t : State} : (Sys2Proof.core.run (k + 1) s : Result) = .next t ↔
    ∃ u, step s = .next u ∧ (Sys2Proof.core.run k u : Result) = .next t := by
  have e : Sys2Proof.core.step s = step s := rfl
  have hrun : Sys2Proof.core.run (k + 1) s = _ := Host.Core.run.eq_2 Sys2Proof.core s k
  rw [e] at hrun
  rw [show (Sys2Proof.core.run (k + 1) s : Result) = _ from hrun]
  cases step s <;> simp

/-! ## The report of a step -/

theorem ofFault_eq_fault {f g : Fault} : StepResult.ofFault f = .fault g ↔ f = g ∧ f ≠ .keyWait := by
  cases f <;> cases g <;> simp [StepResult.ofFault]

theorem ofFault_eq_stalled {f : Fault} : StepResult.ofFault f = .stalled ↔ f = .keyWait := by
  cases f <;> simp [StepResult.ofFault]

@[simp] theorem ofFault_ne_ok (f : Fault) : StepResult.ofFault f ≠ .ok := by
  cases f <;> simp [StepResult.ofFault]

/-- Everything a report can say, beside what `step` answers. -/
theorem stepReport_cases (s : State) :
    (∃ i u, fetchDecode s = .ok i ∧ exec i s = .next u ∧ step s = .next u.complete ∧
      stepReport s = ⟨u.complete, fetchedWord s, .ok, u.tick.frameOut⟩) ∨
    (∃ f, step s = .fault f ∧ stepReport s = ⟨s, fetchedWord s, .ofFault f, none⟩) ∨
    (∃ r, step s = .refused r ∧ stepReport s = ⟨s, fetchedWord s, .refused r, none⟩) := by
  unfold step stepReport
  cases hf : fetchDecode s with
  | error f => exact .inr (.inl ⟨f, rfl, rfl⟩)
  | ok i =>
    cases he : exec i s with
    | next u => exact .inl ⟨i, u, rfl, he, by simp [he], by simp [he]⟩
    | fault f => exact .inr (.inl ⟨f, by simp [he], by simp [he]⟩)
    | refused r => exact .inr (.inr ⟨r, by simp [he], by simp [he]⟩)

end Sys2Proof.Machine
end

