-- ==== Sys2Proof/Laws/PerInstr.lean ====
section
/-! SUPPORT. A statement about every instruction as syntax, one lemma per constructor. -/

namespace Sys2Proof.Laws.EncodeRow

/-- The canonical word of a well-formed instruction selects the instruction's own row of the opcode table
(30_encoding.md R80). -/
def Statement (i : Instr) : Prop :=
  i.wf = true → ∃ row ∈ opcodeTable, row.mnemonic = i.mnemonic ∧ row.selects (encode i) = true

theorem cls : Statement .cls :=
  fun _ => ⟨opcodeTable[0], by decide, rfl, by decide⟩

theorem ret : Statement .ret :=
  fun _ => ⟨opcodeTable[1], by decide, rfl, by decide⟩

theorem sysNnn : ∀ a, Statement (.sysNnn a) :=
  fun a _ => ⟨opcodeTable[2], by decide, rfl, by simp [opcodeTable, OpcodeRow.selects, encode, and_headerMask]⟩

theorem jpNnn : ∀ a, Statement (.jpNnn a) :=
  fun a _ => ⟨opcodeTable[3], by decide, rfl, by simp [opcodeTable, OpcodeRow.selects, encode, and_headerMask]⟩

theorem callNnn : ∀ a, Statement (.callNnn a) :=
  fun a _ => ⟨opcodeTable[4], by decide, rfl, by simp [opcodeTable, OpcodeRow.selects, encode, and_headerMask]⟩

theorem seVxKk : ∀ a b, Statement (.seVxKk a b) :=
  fun a b _ => ⟨opcodeTable[5], by decide, rfl, by simp [opcodeTable, OpcodeRow.selects, encode, and_headerMask]⟩

theorem sneVxKk : ∀ a b, Statement (.sneVxKk a b) :=
  fun a b _ => ⟨opcodeTable[6], by decide, rfl, by simp [opcodeTable, OpcodeRow.selects, encode, and_headerMask]⟩

theorem seVxVy : ∀ a b, Statement (.seVxVy a b) :=
  fun a b _ => ⟨opcodeTable[7], by decide, rfl, by simp [opcodeTable, OpcodeRow.selects, encode, and_headerMask]⟩

theorem ldVxKk : ∀ a b, Statement (.ldVxKk a b) :=
  fun a b _ => ⟨opcodeTable[8], by decide, rfl, by simp [opcodeTable, OpcodeRow.selects, encode, and_headerMask]⟩

theorem addVxKk : ∀ a b, Statement (.addVxKk a b) :=
  fun a b _ => ⟨opcodeTable[9], by decide, rfl, by simp [opcodeTable, OpcodeRow.selects, encode, and_headerMask]⟩

theorem ldVxVy : ∀ a b, Statement (.ldVxVy a b) :=
  fun a b _ => ⟨opcodeTable[10], by decide, rfl, by simp [opcodeTable, OpcodeRow.selects, encode, and_nibbleMask]⟩

theorem orVxVy : ∀ a b, Statement (.orVxVy a b) :=
  fun a b _ => ⟨opcodeTable[11], by decide, rfl, by simp [opcodeTable, OpcodeRow.selects, encode, and_nibbleMask]⟩

theorem andVxVy : ∀ a b, Statement (.andVxVy a b) :=
  fun a b _ => ⟨opcodeTable[12], by decide, rfl, by simp [opcodeTable, OpcodeRow.selects, encode, and_nibbleMask]⟩

theorem xorVxVy : ∀ a b, Statement (.xorVxVy a b) :=
  fun a b _ => ⟨opcodeTable[13], by decide, rfl, by simp [opcodeTable, OpcodeRow.selects, encode, and_nibbleMask]⟩

theorem addVxVy : ∀ a b, Statement (.addVxVy a b) :=
  fun a b _ => ⟨opcodeTable[14], by decide, rfl, by simp [opcodeTable, OpcodeRow.selects, encode, and_nibbleMask]⟩

theorem subVxVy : ∀ a b, Statement (.subVxVy a b) :=
  fun a b _ => ⟨opcodeTable[15], by decide, rfl, by simp [opcodeTable, OpcodeRow.selects, encode, and_nibbleMask]⟩

theorem shrVx : ∀ a b, Statement (.shrVx a b) :=
  fun a b _ => ⟨opcodeTable[16], by decide, rfl, by simp [opcodeTable, OpcodeRow.selects, encode, and_nibbleMask]⟩

theorem subnVxVy : ∀ a b, Statement (.subnVxVy a b) :=
  fun a b _ => ⟨opcodeTable[17], by decide, rfl, by simp [opcodeTable, OpcodeRow.selects, encode, and_nibbleMask]⟩

theorem shlVx : ∀ a b, Statement (.shlVx a b) :=
  fun a b _ => ⟨opcodeTable[18], by decide, rfl, by simp [opcodeTable, OpcodeRow.selects, encode, and_nibbleMask]⟩

theorem sneVxVy : ∀ a b, Statement (.sneVxVy a b) :=
  fun a b _ => ⟨opcodeTable[19], by decide, rfl, by simp [opcodeTable, OpcodeRow.selects, encode, and_headerMask]⟩

theorem ldINnn : ∀ a, Statement (.ldINnn a) :=
  fun a _ => ⟨opcodeTable[20], by decide, rfl, by simp [opcodeTable, OpcodeRow.selects, encode, and_headerMask]⟩

theorem jpV0Nnn : ∀ a, Statement (.jpV0Nnn a) :=
  fun a _ => ⟨opcodeTable[21], by decide, rfl, by simp [opcodeTable, OpcodeRow.selects, encode, and_headerMask]⟩

theorem rndVxKk : ∀ a b, Statement (.rndVxKk a b) :=
  fun a b _ => ⟨opcodeTable[22], by decide, rfl, by simp [opcodeTable, OpcodeRow.selects, encode, and_headerMask]⟩

theorem drwVxVyN : ∀ a b c, Statement (.drwVxVyN a b c) :=
  fun a b c _ => ⟨opcodeTable[23], by decide, rfl, by simp [opcodeTable, OpcodeRow.selects, encode, and_headerMask]⟩

theorem skpVx : ∀ a, Statement (.skpVx a) :=
  fun a _ => ⟨opcodeTable[24], by decide, rfl, by simp [opcodeTable, OpcodeRow.selects, encode, and_byteMask]⟩

theorem sknpVx : ∀ a, Statement (.sknpVx a) :=
  fun a _ => ⟨opcodeTable[25], by decide, rfl, by simp [opcodeTable, OpcodeRow.selects, encode, and_byteMask]⟩

theorem ldVxDt : ∀ a, Statement (.ldVxDt a) :=
  fun a _ => ⟨opcodeTable[26], by decide, rfl, by simp [opcodeTable, OpcodeRow.selects, encode, and_byteMask]⟩

theorem ldVxK : ∀ a, Statement (.ldVxK a) :=
  fun a _ => ⟨opcodeTable[27], by decide, rfl, by simp [opcodeTable, OpcodeRow.selects, encode, and_byteMask]⟩

theorem ldDtVx : ∀ a, Statement (.ldDtVx a) :=
  fun a _ => ⟨opcodeTable[28], by decide, rfl, by simp [opcodeTable, OpcodeRow.selects, encode, and_byteMask]⟩

theorem ldStVx : ∀ a, Statement (.ldStVx a) :=
  fun a _ => ⟨opcodeTable[29], by decide, rfl, by simp [opcodeTable, OpcodeRow.selects, encode, and_byteMask]⟩

theorem addIVx : ∀ a, Statement (.addIVx a) :=
  fun a _ => ⟨opcodeTable[30], by decide, rfl, by simp [opcodeTable, OpcodeRow.selects, encode, and_byteMask]⟩

theorem ldFVx : ∀ a, Statement (.ldFVx a) :=
  fun a _ => ⟨opcodeTable[31], by decide, rfl, by simp [opcodeTable, OpcodeRow.selects, encode, and_byteMask]⟩

theorem ldBVx : ∀ a, Statement (.ldBVx a) :=
  fun a _ => ⟨opcodeTable[32], by decide, rfl, by simp [opcodeTable, OpcodeRow.selects, encode, and_byteMask]⟩

theorem ldMemVx : ∀ a, Statement (.ldMemVx a) :=
  fun a _ => ⟨opcodeTable[33], by decide, rfl, by simp [opcodeTable, OpcodeRow.selects, encode, and_byteMask]⟩

theorem ldVxMem : ∀ a, Statement (.ldVxMem a) :=
  fun a _ => ⟨opcodeTable[34], by decide, rfl, by simp [opcodeTable, OpcodeRow.selects, encode, and_byteMask]⟩

end Sys2Proof.Laws.EncodeRow
end

