-- ==== Sys2Proof/Tests/Slice0.lean ====
section
/-! SUPPORT. The tests. Words are written out from spec/30_encoding.md R80; expected results are vectors of
spec/95_test_vectors.md (the section stands beside each group). Then, for every statement with
hypotheses, a witness that meets them. -/

namespace Sys2Proof.Tests

open Sys2Proof.Machine

set_option maxRecDepth 4000

/-! ## Helpers -/

/-- The reset state with a word at 0x200. -/
def boot (w : Nat) : State := State.reset.withFetchWord 16 w

/-- A register set. -/
def withReg (r : Reg) (b : Byte) (s : State) : State := s.setReg r b

/-- A byte of memory set. -/
def withByte (a : Nat) (b : Byte) (s : State) : State := s.setMem (s.mem.write a b)

/-- `SP` set, the stack all zero. -/
def withSp (n : Fin 17) (s : State) : State := { s with sp := n }

/-- A stack entry set. -/
def withEntry (j : Fin 16) (w : Word) (s : State) : State := { s with stack := s.stack.set j.val w }

/-- A cell of the screen toggled. -/
def withCell (c : Cell) (s : State) : State := s.setDisplay (s.fb.toggle c)

/-- One step completes, in a state with the property. -/
def steps (s : State) (p : State → Bool) : Bool :=
  match step s with
  | .next t => p t
  | .fault _ => false
  | .refused _ => false

/-- One step faults so. -/
def faults (s : State) (f : Fault) : Bool :=
  match step s with
  | .next _ => false
  | .fault g => g = f
  | .refused _ => false

/-- Sprite rows at 0x300, and `I` there. -/
def spriteAt300 (bytes : List Byte) (s : State) : State :=
  (s.setMem (s.mem.writeBlock 0x300 bytes)).setIndex 0x0300#16

/-! ## WellFormed: the ill-formed terms are refused -/

theorem test_wf_refuses_sys_with_cls_nibble : (Instr.sysNnn 0x0E0#12).wf = false := by decide
theorem test_wf_refuses_sys_with_ret_nibble : (Instr.sysNnn 0x0EE#12).wf = false := by decide
theorem test_wf_accepts_other_sys : (Instr.sysNnn 0x123#12).wf = true := by decide

/-! ## Decoding: a word of every constructor (30_encoding.md R80) -/

theorem test_decode_group0 :
    decode 0x00E0#16 = .ok .cls ∧ decode 0x00EE#16 = .ok .ret ∧ decode 0x0123#16 = .ok (.sysNnn 0x123#12) := by
  decide
theorem test_decode_jumps :
    decode 0x1ABC#16 = .ok (.jpNnn 0xABC#12) ∧ decode 0x2345#16 = .ok (.callNnn 0x345#12) ∧
    decode 0xB30F#16 = .ok (.jpV0Nnn 0x30F#12) := by decide
theorem test_decode_skips :
    decode 0x31A5#16 = .ok (.seVxKk 1 0xA5#8) ∧ decode 0x4F5A#16 = .ok (.sneVxKk 0xF 0x5A#8) ∧
    decode 0x5120#16 = .ok (.seVxVy 1 2) ∧ decode 0x9340#16 = .ok (.sneVxVy 3 4) := by decide
theorem test_decode_immediates :
    decode 0x6A07#16 = .ok (.ldVxKk 0xA 0x07#8) ∧ decode 0x73A0#16 = .ok (.addVxKk 3 0xA0#8) ∧
    decode 0xC10F#16 = .ok (.rndVxKk 1 0x0F#8) := by decide
theorem test_decode_group8_low :
    decode 0x8120#16 = .ok (.ldVxVy 1 2) ∧ decode 0x8121#16 = .ok (.orVxVy 1 2) ∧
    decode 0x8122#16 = .ok (.andVxVy 1 2) ∧ decode 0x8123#16 = .ok (.xorVxVy 1 2) ∧
    decode 0x8124#16 = .ok (.addVxVy 1 2) := by decide
theorem test_decode_group8_high :
    decode 0x8125#16 = .ok (.subVxVy 1 2) ∧ decode 0x8126#16 = .ok (.shrVx 1 2) ∧
    decode 0x8127#16 = .ok (.subnVxVy 1 2) ∧ decode 0x812E#16 = .ok (.shlVx 1 2) := by decide
theorem test_decode_index_and_draw :
    decode 0xA2F0#16 = .ok (.ldINnn 0x2F0#12) ∧ decode 0xD125#16 = .ok (.drwVxVyN 1 2 5) := by decide
theorem test_decode_groupE :
    decode 0xE39E#16 = .ok (.skpVx 3) ∧ decode 0xE3A1#16 = .ok (.sknpVx 3) := by decide
theorem test_decode_groupF_timers_and_key :
    decode 0xF107#16 = .ok (.ldVxDt 1) ∧ decode 0xF20A#16 = .ok (.ldVxK 2) ∧
    decode 0xF315#16 = .ok (.ldDtVx 3) ∧ decode 0xF418#16 = .ok (.ldStVx 4) := by decide
theorem test_decode_groupF_memory :
    decode 0xF51E#16 = .ok (.addIVx 5) ∧ decode 0xF629#16 = .ok (.ldFVx 6) ∧
    decode 0xF733#16 = .ok (.ldBVx 7) ∧ decode 0xF855#16 = .ok (.ldMemVx 8) ∧
    decode 0xF965#16 = .ok (.ldVxMem 9) := by decide

/-- Section 2.1: other spellings are accepted, illegal words are rejected with the word. -/
theorem test_decode_other_spellings :
    decode 0x0120#16 = .ok .cls ∧ decode 0x01AE#16 = .ok .ret ∧ decode 0x5121#16 = .ok (.seVxVy 1 2) ∧
    decode 0x912F#16 = .ok (.sneVxVy 1 2) := by decide
theorem test_decode_illegal_words :
    ([0x8128#16, 0x812F#16, 0xE19F#16, 0xE100#16, 0xF1FF#16, 0xF075#16, 0xF000#16].all fun op =>
      decode op = .error (.decodeError op)) = true := by decide

/-- Byte-order check of section 2.10: the bytes 12 34 are the word 0x1234. -/
theorem test_bytes_are_big_endian :
    decodeBytes [0x12#8, 0x34#8, 0x56#8] = .ok (.jpNnn 0x234#12, [0x56#8]) ∧
    decodeBytes [0x12#8] = .error .truncated := by decide
theorem test_table_word : decodeTableWord 16 0xD125 = some (.drwVxVyN 1 2 5) ∧
    decodeTableWord 16 0x8128 = none := by decide

/-! ## Sections 2.2 and 2.3: arithmetic, logic and shifts -/

theorem test_ld_imm : steps (boot 0x6A07) (fun t => t.reg 0xA = 0x07#8 && t.pc = 0x202#16) = true := by decide
theorem test_add_imm_wraps_without_flag :
    steps (withReg 0 0xFF#8 (boot 0x7001)) (fun t => t.reg 0 = 0#8 && t.reg vf = 0#8) = true := by decide
theorem test_add_imm_on_vf :
    steps (withReg vf 0x01#8 (boot 0x7FFF)) (fun t => t.reg vf = 0#8) = true := by decide
theorem test_add_carry :
    steps (withReg 0 0xFF#8 (withReg 1 0xFF#8 (boot 0x8014)))
      (fun t => t.reg 0 = 0xFE#8 && t.reg vf = 1#8) = true := by decide
theorem test_add_flag_survives_in_vf :
    steps (withReg vf 0x10#8 (withReg 1 0x20#8 (boot 0x8F14))) (fun t => t.reg vf = 0#8) = true := by decide
theorem test_sub_borrow :
    steps (withReg 1 0x01#8 (withReg 2 0x02#8 (boot 0x8125)))
      (fun t => t.reg 1 = 0xFF#8 && t.reg vf = 0#8) = true := by decide
theorem test_sub_equal_has_no_borrow :
    steps (withReg 0 0x05#8 (withReg 1 0x05#8 (boot 0x8015)))
      (fun t => t.reg 0 = 0#8 && t.reg vf = 1#8) = true := by decide
theorem test_subn : steps (withReg 1 0x03#8 (withReg 2 0x0A#8 (boot 0x8127)))
    (fun t => t.reg 1 = 0x07#8 && t.reg vf = 1#8) = true := by decide
theorem test_subn_borrow : steps (withReg 1 0x0A#8 (withReg 2 0x03#8 (boot 0x8127)))
    (fun t => t.reg 1 = 0xF9#8 && t.reg vf = 0#8) = true := by decide
theorem test_rnd_with_mask_zero :
    steps (withReg 3 0x55#8 (boot 0xC300)) (fun t => t.pc = 0x202#16 && t.rndDraws = 1) = true := by decide
theorem test_move : steps (withReg 1 0x5A#8 (boot 0x8010)) (fun t => t.reg 0 = 0x5A#8) = true := by decide
theorem test_or_keeps_vf : steps (withReg 0 0xAA#8 (withReg 1 0x55#8 (withReg vf 0x07#8 (boot 0x8011))))
    (fun t => t.reg 0 = 0xFF#8 && t.reg vf = 0x07#8) = true := by decide
theorem test_and_keeps_vf : steps (withReg 0 0xAA#8 (withReg 1 0x55#8 (withReg vf 0x07#8 (boot 0x8012))))
    (fun t => t.reg 0 = 0x00#8 && t.reg vf = 0x07#8) = true := by decide
theorem test_xor_keeps_vf : steps (withReg 0 0xAA#8 (withReg 1 0xAA#8 (withReg vf 0x07#8 (boot 0x8013))))
    (fun t => t.reg 0 = 0x00#8 && t.reg vf = 0x07#8) = true := by decide
theorem test_shr_ignores_vy : steps (withReg 0 0xFF#8 (withReg 1 0x10#8 (boot 0x8016)))
    (fun t => t.reg 0 = 0x7F#8 && t.reg vf = 1#8 && t.reg 1 = 0x10#8) = true := by decide
theorem test_shr_flag_survives_in_vf :
    steps (withReg vf 0x03#8 (boot 0x8F06)) (fun t => t.reg vf = 1#8) = true := by decide
theorem test_shl_ignores_vy : steps (withReg 0 0xFF#8 (withReg 1 0x10#8 (boot 0x801E)))
    (fun t => t.reg 0 = 0xFE#8 && t.reg vf = 1#8 && t.reg 1 = 0x10#8) = true := by decide
theorem test_shl_flag_survives_in_vf :
    steps (withReg vf 0x01#8 (boot 0x8F0E)) (fun t => t.reg vf = 0#8) = true := by decide

/-! ## Sections 2.4 and 2.5: control flow and skips -/

theorem test_sys_only_advances : steps (boot 0x0123) (fun t => t = (boot 0x0123).setPc 0x202#16) = true := by
  decide
theorem test_jump_to_itself_is_fixed_point : step (boot 0x1200) = .next (boot 0x1200) := rfl
theorem test_jump_to_odd_address : steps (boot 0x1201) (fun t => t.pc = 0x201#16) = true := by decide
theorem test_call_last_free_slot : steps (withSp 15 (boot 0x2300))
    (fun t => t.pc = 0x300#16 && t.sp = 16 && t.stackEntry 15 = 0x202#16) = true := by decide
theorem test_call_on_full_stack_faults : faults (withSp 16 (boot 0x2300)) .stackOverflow = true := by decide
theorem test_ret_takes_last_entry :
    steps (withSp 2 (withEntry 0 0x0ABC#16 (withEntry 1 0x0400#16 (boot 0x00EE))))
      (fun t => t.pc = 0x400#16 && t.sp = 1 && t.stackEntry 1 = 0x0400#16) = true := by decide
theorem test_ret_on_empty_stack_faults : faults (boot 0x00EE) .stackUnderflow = true := by decide
theorem test_jump_v0_has_no_mask :
    steps (withReg 0 0xFF#8 (boot 0xBFFF)) (fun t => t.pc = 0x10FE#16) = true := by decide
theorem test_jump_v0_uses_v0 : steps (withReg 0 0x04#8 (withReg 3 0x50#8 (boot 0xB300)))
    (fun t => t.pc = 0x304#16) = true := by decide
theorem test_se_imm_taken : steps (boot 0x3100) (fun t => t.pc = 0x204#16) = true := by decide
theorem test_se_imm_not_taken :
    steps (withReg 1 0x01#8 (boot 0x3100)) (fun t => t.pc = 0x202#16) = true := by decide
theorem test_sne_imm_taken :
    steps (withReg 1 0x05#8 (boot 0x4100)) (fun t => t.pc = 0x204#16) = true := by decide
theorem test_sne_imm_not_taken :
    steps (withReg vf 0x01#8 (boot 0x4F01)) (fun t => t.pc = 0x202#16) = true := by decide
theorem test_se_reg_taken : steps (withReg 1 0x07#8 (withReg 2 0x07#8 (boot 0x5120)))
    (fun t => t.pc = 0x204#16) = true := by decide
theorem test_se_reg_not_taken : steps (withReg 1 0x07#8 (withReg 2 0x08#8 (boot 0x5120)))
    (fun t => t.pc = 0x202#16) = true := by decide
theorem test_sne_reg_taken : steps (withReg 1 0x07#8 (withReg 2 0x08#8 (boot 0x9120)))
    (fun t => t.pc = 0x204#16) = true := by decide
theorem test_sne_reg_not_taken : steps (boot 0x9000) (fun t => t.pc = 0x202#16) = true := by decide

/-! ## Section 2.6: memory and index -/

theorem test_ld_i : steps (boot 0xAFFF) (fun t => t.i = 0x0FFF#16) = true := by decide
theorem test_add_i_wraps :
    steps ((withReg 0 0x01#8 (boot 0xF01E)).setIndex 0xFFFF#16) (fun t => t.i = 0#16) = true := by decide
theorem test_add_i_passes_fff_without_flag :
    steps ((withReg 0 0x01#8 (withReg vf 0x09#8 (boot 0xF01E))).setIndex 0x0FFF#16)
      (fun t => t.i = 0x1000#16 && t.reg vf = 0x09#8) = true := by decide
theorem test_glyph_of_7 : steps (withReg 0xA 0x07#8 (boot 0xFA29)) (fun t => t.i = 0x0073#16) = true := by decide
theorem test_glyph_of_ff : steps (withReg 0 0xFF#8 (boot 0xF029)) (fun t => t.i = 0x054B#16) = true := by decide
theorem test_bcd_of_234 : steps ((withReg 5 0xEA#8 (boot 0xF533)).setIndex 0x0300#16)
    (fun t => t.mem.readBlock 0x300 4 = [2#8, 3#8, 4#8, 0#8]) = true := by decide
theorem test_bcd_out_of_range : faults ((withReg 0 0x64#8 (boot 0xF033)).setIndex 0x0FFE#16)
    (.boundsViolation 0x1000) = true := by decide
theorem test_block_store : steps ((withReg 0 0x16#8 (withReg 1 0x10#8 (boot 0xF155))).setIndex 0x0400#16)
    (fun t => t.mem.readBlock 0x400 3 = [0x16#8, 0x10#8, 0x00#8]) = true := by decide
theorem test_block_store_out_of_range :
    faults ((boot 0xF155).setIndex 0x0FFF#16) (.boundsViolation 0x1000) = true := by decide
theorem test_block_load_of_font : steps ((boot 0xFF65).setIndex 0x0050#16) (fun t => t.v.toList =
    [0xF0#8, 0x90#8, 0x90#8, 0x90#8, 0xF0#8, 0x20#8, 0x60#8, 0x20#8, 0x20#8, 0x70#8, 0xF0#8, 0x10#8, 0xF0#8,
      0x80#8, 0xF0#8, 0xF0#8]) = true := by decide
theorem test_block_load_out_of_range :
    faults ((boot 0xF165).setIndex 0x0FFF#16) (.boundsViolation 0x1000) = true := by decide

/-! ## Sections 2.7 and 2.8: timers and input -/

theorem test_read_delay_then_tick : steps ((boot 0xF107).setDelay 0x02#8)
    (fun t => t.reg 1 = 0x02#8 && t.dt = 0x01#8) = true := by decide
theorem test_write_delay_then_tick :
    steps (withReg 0 0x03#8 (boot 0xF015)) (fun t => t.dt = 0x02#8) = true := by decide
theorem test_write_sound_then_tick : steps ((withReg 0 0xFF#8 (boot 0xF018)).setDelay 0x01#8)
    (fun t => t.st = 0xFE#8 && t.dt = 0x00#8) = true := by decide
theorem test_skp_taken : steps ((withReg 3 0x02#8 (boot 0xE39E)).keyDown 2) (fun t => t.pc = 0x204#16) = true := by
  decide
theorem test_skp_key_out_of_range :
    faults (withReg 0 0x10#8 (boot 0xE09E)) (.boundsViolation 16) = true := by decide
theorem test_sknp_taken : steps (withReg 3 0x02#8 (boot 0xE3A1)) (fun t => t.pc = 0x204#16) = true := by decide
theorem test_sknp_not_taken : steps ((boot 0xE0A1).keyDown 0) (fun t => t.pc = 0x202#16) = true := by decide
theorem test_wait_key_stalls : faults ((boot 0xF00A).setDelay 0x03#8) .keyWait = true ∧
    (stepReport ((boot 0xF00A).setDelay 0x03#8)).state = (boot 0xF00A).setDelay 0x03#8 := by decide
theorem test_wait_key_takes_lowest : steps ((((boot 0xF30A).keyDown 7).keyDown 2).setDelay 0x03#8)
    (fun t => t.reg 3 = 0x02#8 && t.pc = 0x202#16 && t.dt = 0x02#8) = true := by decide

/-! ## Section 2.9: display -/

theorem test_cls : steps (withCell 5 (boot 0x00E0)) (fun t => t.fb = FrameBuffer.clear) = true := by decide
theorem test_cls_emits_frame :
    (stepReport (boot 0x00E0)).frame = some FrameBuffer.clear ∧ (stepReport (boot 0x6000)).frame = none := by decide
theorem test_draw_wraps_at_the_edges :
    (FrameBuffer.clear.draw 62 31 [0xFF#8]).fb = FrameBuffer.clear.set 31 0xC00000000000003F#64 ∧
    (FrameBuffer.clear.draw 0 31 [0x80#8, 0x80#8]).fb = (FrameBuffer.clear.set 31 1#64).set 0 1#64 := by decide
theorem test_drw_collides : steps (withCell 1 (spriteAt300 [0xC0#8] (boot 0xD011)))
    (fun t => t.fb.cell 0 && !t.fb.cell 1 && t.reg vf = 1#8) = true := by decide

/-! ## Section 2.10: fetch -/

theorem test_fetch_last_word : steps (((withByte 0xFFE 0x60#8 (withByte 0xFFF 0x01#8 State.reset))).setPc 0x0FFE#16)
    (fun t => t.reg 0 = 0x01#8 && t.pc = 0x1000#16) = true := by decide
theorem test_fetch_out_of_range : faults (State.reset.setPc 0x0FFF#16) (.boundsViolation 0x1000) = true ∧
    faults (State.reset.setPc 0xFFFF#16) (.boundsViolation 0xFFFF) = true := by decide

/-! ## Witnesses: the hypotheses of every statement that has some, clause by clause -/

theorem witness_DecodeInvertsEncode : (Instr.sysNnn 0xFFF#12).wf = true ∧ (Instr.drwVxVyN 15 15 15).wf = true ∧
    Instr.cls.wf = true := by decide
theorem witness_NonCanonicalSpellingsAreOnlyThese :
    decode 0x6A07#16 = .ok (.ldVxKk 0xA 0x07#8) ∧ decode 0x0FF0#16 = .ok .cls ∧ decode 0x0FFE#16 = .ok .ret ∧
    decode 0x5121#16 = .ok (.seVxVy 1 2) ∧ decode 0x912F#16 = .ok (.sneVxVy 1 2) := by decide
theorem witness_DecoderFollowsOpcodeTable :
    decode 0xF065#16 = .ok (.ldVxMem 0) ∧ decode 0xF066#16 = .error (.decodeError 0xF066#16) := by decide
theorem witness_LoadPlacesImageAndNothingElse : State.reset.mem.wf ∧
    (List.replicate 3584 1#8).length ≤ 3584 ∧ 3584 < (List.replicate 3585 1#8).length ∧
    ([0x12#8, 0x00#8, 0xAB#8] : List Byte)[2]? = some 0xAB#8 :=
  ⟨by decide, by rw [List.length_replicate], by rw [List.length_replicate]; decide, rfl⟩
theorem witness_SessionKeepsFaultRecordAndRefusesLateLoad :
    ∃ h' : Session, { Session.initial with faulted := some .stackUnderflow }.performAll [.step, .snapshot] =
      .ok h' := ⟨_, rfl⟩
theorem witness_SessionKeepsFaultRecordAndRefusesLateLoad_step_and_load :
    ({ Session.initial with core := boot 0x00EE }).faulted = none ∧
    (stepReport (boot 0x00EE)).result = .fault .stackUnderflow ∧ Session.initial.started = false ∧
    (stepReport (boot 0x6000)).result = .ok ∧
    Session.initial.core.load [0x12#8] = some (withByte 0x200 0x12#8 State.reset) := by decide
theorem witness_SessionKeepsFaultRecordAndRefusesLateLoad_load_too_long :
    State.reset.load (List.replicate 3585 0#8) = none := by
  rw [State.load, if_neg (by rw [List.length_replicate]; decide)]
theorem witness_SessionKeepsFaultRecordAndRefusesLateLoad_started :
    ∃ h' : Session, { Session.initial with started := true }.performAll [.keyDown 3] = .ok h' := ⟨_, rfl⟩
theorem witness_FaultingStepLeavesStateAndEmitsNoFrame :
    step (boot 0x00EE) = .fault .stackUnderflow ∧ step (boot 0xF00A) = .fault .keyWait ∧
    Fault.stackUnderflow ≠ .keyWait := ⟨rfl, rfl, by decide⟩
theorem witness_FaultRepeatsWhateverKeysAndDraws :
    step (withReg 0 0x10#8 (boot 0xE09E)) = .fault (.boundsViolation 16) ∧
    Fault.boundsViolation 16 ≠ .keyWait := ⟨rfl, by decide⟩
theorem witness_StepRunsTheDecodedInstruction :
    (boot 0x6A07).pc.toNat ≤ 0xFFE ∧
    decode (joinBytes ((boot 0x6A07).mem.read (boot 0x6A07).pc.toNat)
      ((boot 0x6A07).mem.read ((boot 0x6A07).pc.toNat + 1))) = .ok (.ldVxKk 0xA 0x07#8) ∧
    ∃ t, exec (.ldVxKk 0xA 0x07#8) (boot 0x6A07) = .next t :=
  ⟨by decide, by decide, _, rfl⟩
theorem witness_StepRunsTheDecodedInstruction_stall :
    decode (joinBytes ((boot 0xF00A).mem.read (boot 0xF00A).pc.toNat)
      ((boot 0xF00A).mem.read ((boot 0xF00A).pc.toNat + 1))) = .ok (.ldVxK 0) ∧
    exec (.ldVxK 0) (boot 0xF00A) = .fault .keyWait := ⟨by decide, rfl⟩
theorem witness_StepRunsTheDecodedInstruction_fault :
    decode (joinBytes ((boot 0x00EE).mem.read (boot 0x00EE).pc.toNat)
      ((boot 0x00EE).mem.read ((boot 0x00EE).pc.toNat + 1))) = .ok .ret ∧
    exec .ret (boot 0x00EE) = .fault .stackUnderflow := ⟨by decide, rfl⟩
theorem witness_FetchReadsTwoBytesBigEndianOrFaults :
    (State.reset.setPc 0x0FFE#16).pc.toNat ≤ 0xFFE ∧ 0xFFE < (State.reset.setPc 0x0FFF#16).pc.toNat ∧
    0xFFF < (State.reset.setPc 0x1000#16).pc.toNat ∧
    (State.reset.keyDown 1).pc = State.reset.pc ∧
    (State.reset.keyDown 1).mem.read 0x200 = State.reset.mem.read 0x200 ∧
    (State.reset.keyDown 1).mem.read 0x201 = State.reset.mem.read 0x201 := by decide
theorem witness_DecodeErrorExactlyOnIllegalWords :
    fetch (boot 0x8128) = .ok 0x8128#16 ∧ IllegalWord 0x8128#16 ∧ IllegalWord 0xE19F#16 ∧ IllegalWord 0xF1FF#16 ∧
    opHeader 0x0FFF#16 = 0x0#4 ∧ step (boot 0x8128) = .fault (.decodeError 0x8128#16) :=
  ⟨rfl, .inl (by decide), .inr (.inl (by decide)), .inr (.inr (by decide)), by decide, rfl⟩
theorem witness_CompletedStepTicksBothTimersOnce :
    fetchDecode (boot 0xF015) = .ok (.ldDtVx 0) ∧ fetchDecode (boot 0xF018) = .ok (.ldStVx 0) ∧
    (∃ t, step (boot 0xF015) = .next t) ∧ (∃ t, step (boot 0xF018) = .next t) :=
  ⟨rfl, rfl, ⟨_, rfl⟩, _, rfl⟩
theorem witness_CompletedStepTicksBothTimersOnce_stall :
    fetchDecode (boot 0xF00A) = .ok (.ldVxK 0) ∧ step (boot 0xF00A) = .fault .keyWait := ⟨rfl, rfl⟩
theorem witness_FrameExactlyAfterClsOrDrw : (boot 0x00E0).modified = false ∧
    (stepReport (boot 0x00E0)).frame = some FrameBuffer.clear ∧
    (stepReport (boot 0xD011)).frame.isSome = true := by decide
theorem witness_StallHoldsStateUntilKeyDown : WaitsForKey (boot 0xF00A) ∧
    (∃ h', { Session.initial with core := boot 0xF00A }.perform .step = .ok h') ∧
    (∃ h', { Session.initial with core := boot 0xF00A }.perform .snapshot = .ok h') ∧
    ∃ h', { Session.initial with core := boot 0xF00A }.perform (.keyUp 3) = .ok h' :=
  ⟨⟨⟨0, rfl⟩, by decide⟩, ⟨_, rfl⟩, ⟨_, rfl⟩, _, rfl⟩
theorem witness_SelfJumpIsFixedPoint : fetchDecode (boot 0x1200) = .ok (.jpNnn 0x200#12) ∧
    (boot 0x1200).pc.toNat = (0x200#12).toNat ∧ (boot 0x1200).dt = 0#8 ∧ (boot 0x1200).st = 0#8 ∧
    (boot 0x1200).modified = false := ⟨rfl, by decide, rfl, rfl, rfl⟩
theorem witness_SelfJumpIsFixedPoint_run : EndsAfter 0 (boot 0x1200) (boot 0x1200) ∧
    step (boot 0x1200) = .next (boot 0x1200) ∧ step (boot 0xB200) = .next (boot 0xB200) :=
  ⟨⟨rfl, rfl, rfl, 0x200#12, rfl, by decide⟩, rfl, rfl⟩
theorem witness_StepKeepsInvariant : (boot 0xF533).Inv ∧ ∃ t, step (boot 0xF533) = .next t :=
  ⟨⟨by decide, rfl⟩, _, rfl⟩
theorem witness_HostActionsKeepInvariant : Session.initial.core.Inv ∧
    (∃ h', Session.initial.perform (.load [0x12#8, 0x00#8]) = .ok h') ∧
    (∃ h', Session.initial.perform .step = .ok h') ∧ (∃ h', Session.initial.perform .reset = .ok h') :=
  ⟨⟨by decide, rfl⟩, ⟨_, rfl⟩, ⟨_, rfl⟩, _, rfl⟩
theorem witness_OnlyStoresAndLoadWriteMemory : (∃ t, exec .cls State.reset = .next t) ∧
    (∃ h', Session.initial.perform (.keyDown 0xF) = .ok h') ∧
    (∃ t, step (boot 0xF065) = .next t) ∧ fetchDecode (boot 0xF065) = .ok (.ldVxMem 0) :=
  ⟨⟨_, rfl⟩, ⟨_, rfl⟩, ⟨_, rfl⟩, rfl⟩
theorem witness_OnlyClsAndDrwWriteDisplay : ∃ t, exec (.ldBVx 3) State.reset = .next t := ⟨_, rfl⟩
theorem witness_OnlyKeyEventsAndResetWriteKeys : (∃ t, step ((boot 0xF00A).keyDown 2) = .next t) ∧
    ∃ h', Session.initial.perform .step = .ok h' := ⟨⟨_, rfl⟩, _, rfl⟩
theorem witness_OnlyCallAndRetTouchStack : (∃ t, exec (.callNnn 0x300#12) State.reset = .next t) ∧
    (∃ t, exec .ret (withSp 1 State.reset) = .next t) ∧ ∃ t, exec (.jpNnn 0x300#12) State.reset = .next t :=
  ⟨⟨_, rfl⟩, ⟨_, rfl⟩, _, rfl⟩
theorem witness_RegistersChangeOnlyAsNamed :
    (∃ t, exec (.ldVxMem 14) State.reset = .next t) ∧ vf ∉ writesOf (.ldVxMem 14) :=
  ⟨⟨_, rfl⟩, by decide⟩
theorem witness_IndexChangesOnlyAsNamed : ∃ t, exec (.ldBVx 3) State.reset = .next t := ⟨_, rfl⟩
theorem witness_PcIsTargetOrAdvances : (∃ t, exec (.jpV0Nnn 0xFFF#12) State.reset = .next t) ∧
    (∃ t, exec (.callNnn 0x300#12) State.reset = .next t) ∧ (∃ t, exec .ret (withSp 1 State.reset) = .next t) ∧
    (∃ t, exec (.skpVx 0) (State.reset.keyDown 0) = .next t) ∧
    (∃ t, exec (.jpNnn 0xFFF#12) State.reset = .next t) ∧ skipTaken (.skpVx 0) (State.reset.keyDown 0) = true :=
  ⟨⟨_, rfl⟩, ⟨_, rfl⟩, ⟨_, rfl⟩, ⟨_, rfl⟩, ⟨_, rfl⟩, by decide⟩
theorem witness_ExecFaultsExactlyOnTheseConditions :
    exec (.callNnn 0x300#12) (withSp 16 State.reset) = .fault .stackOverflow ∧
    exec .ret State.reset = .fault .stackUnderflow ∧
    exec (.drwVxVyN 0 1 15) (State.reset.setIndex 0x0FF2#16) = .fault (.boundsViolation 0x1000) ∧
    exec (.ldBVx 0) (State.reset.setIndex 0x0FFE#16) = .fault (.boundsViolation 0x1000) ∧
    exec (.ldVxMem 1) (State.reset.setIndex 0x0FFF#16) = .fault (.boundsViolation 0x1000) ∧
    exec (.sknpVx 0) (withReg 0 0x10#8 State.reset) = .fault (.boundsViolation 16) ∧
    exec (.ldVxK 0) State.reset = .fault .keyWait := ⟨rfl, rfl, rfl, rfl, rfl, rfl, rfl⟩
theorem witness_SoundTimerIsUnobservable :
    SameButSound State.reset (State.reset.setSound 0x05#8) ∧ State.reset ≠ State.reset.setSound 0x05#8 :=
  ⟨rfl, by decide⟩
theorem witness_DeadStackSlotsAreUnobservable :
    SameButDeadSlots (withSp 15 State.reset) (withSp 15 (withEntry 15 0x0ABC#16 State.reset)) ∧
    withSp 15 State.reset ≠ withSp 15 (withEntry 15 0x0ABC#16 State.reset) :=
  ⟨⟨rfl, by decide⟩, by decide⟩
theorem witness_CallPushesReturnAddress : State.reset.sp.val = (0 : Fin 16).val ∧
    (withSp 15 State.reset).sp.val = (15 : Fin 16).val ∧ (withSp 16 State.reset).sp.val = 16 := by decide
theorem witness_RetPopsReturnAddress : (withSp 1 State.reset).sp.val = (0 : Fin 16).val + 1 ∧
    (withSp 16 State.reset).sp.val = (15 : Fin 16).val + 1 ∧ State.reset.sp.val = 0 := by decide
theorem witness_SixteenCallsSucceedAndSeventeenthFaults : State.reset.sp.val = 0 ∧
    (List.replicate 16 0x200#12).length = 16 ∧ 16 < (List.replicate 17 0x200#12).length ∧
    (withSp 16 (boot 0x2300)).sp.val = 16 := by decide
theorem witness_SixteenCallsSucceedAndSeventeenthFaults_step :
    fetchDecode (withSp 16 (boot 0x2300)) = .ok (.callNnn 0x300#12) := rfl
theorem witness_CallThenRetReturnsBehindCall :
    ∃ t, exec (.callNnn 0x300#12) (withSp 15 State.reset) = .next t := ⟨_, rfl⟩
theorem witness_KeySkipsTestTheLatch : ((withReg 0 0x0F#8 State.reset).reg 0).toNat ≤ 15 ∧
    15 < ((withReg 0 0x10#8 State.reset).reg 0).toNat := by decide
theorem witness_WaitKeyTakesLowestPressedKey :
    (State.reset.keyDown 15).key (15 : Key).val = true ∧
    (∀ j : Key, j.val < (15 : Key).val → (State.reset.keyDown 15).key j.val = false) ∧
    ((State.reset.keyDown 15).keyDown 0).key (0 : Key).val = true ∧
    ∀ k : Key, State.reset.key k.val = false := by decide
theorem witness_FlagStatements_destination_not_vf : (0xE : Reg) ≠ vf ∧ (0xF : Reg) = vf := by decide
theorem witness_BcdStoresThreeDigits : State.reset.mem.wf ∧
    (State.reset.setIndex 0x0FFD#16).i.toNat + 2 ≤ 0xFFF ∧
    0xFFF < (State.reset.setIndex 0x0FFE#16).i.toNat + 2 := by decide
theorem witness_BlockStoreWritesRegisters : State.reset.mem.wf ∧
    (State.reset.setIndex 0x0FF0#16).i.toNat + (15 : Reg).val ≤ 0xFFF ∧
    0xFFF < (State.reset.setIndex 0x0FF1#16).i.toNat + (15 : Reg).val := by decide
theorem witness_BlockLoadReadsRegisters :
    (State.reset.setIndex 0x0FFF#16).i.toNat + (0 : Reg).val ≤ 0xFFF ∧
    0xFFF < (State.reset.setIndex 0x1000#16).i.toNat + (0 : Reg).val := by decide
theorem witness_StoredWordIsFetchedBigEndian : State.reset.mem.wf ∧
    (∃ t, exec (.ldMemVx 1) (State.reset.setIndex 0x0202#16) = .next t ∧
      t.pc.toNat = (State.reset.setIndex 0x0202#16).i.toNat + (0 : Reg).val) ∧
    (1 : Reg).val ≤ (1 : Reg).val ∧ (1 : Reg).val = (0 : Reg).val + 1 :=
  ⟨by decide, ⟨_, rfl, by decide⟩, by decide, by decide⟩
theorem witness_StoredWordIsFetchedBigEndian_load : State.reset.mem.wf ∧
    (∃ t, State.reset.load [0x12#8, 0x34#8] = some t ∧ (State.reset.setMem t.mem).pc.toNat = 0x200 + 0) ∧
    ([0x12#8, 0x34#8] : List Byte)[0]? = some 0x12#8 ∧ ([0x12#8, 0x34#8] : List Byte)[0 + 1]? = some 0x34#8 ∧
    (State.reset.setPc 0x0FFE#16).pc.toNat ≤ 0xFFE :=
  ⟨by decide, ⟨_, rfl, by decide⟩, rfl, rfl, by decide⟩
theorem witness_DrawXorsSpriteAndReportsCollision : (List.replicate 15 0xFF#8).length ≤ 15 ∧
    SpriteCovers 63 31 [0xC0#8] 1984 :=
  ⟨by decide, 0, 1, by decide, ⟨0xC0#8, rfl, by decide⟩, by decide⟩
theorem witness_SpritePixelsTargetDistinctCells :
    14 < 15 ∧ 7 < 8 ∧ targetCell 63 31 14 7 = targetCell 63 31 14 7 := ⟨by decide, by decide, rfl⟩
theorem witness_DrawingTwiceRestoresTheScreen : (List.replicate 15 0xFF#8).length ≤ 15 := by decide
theorem witness_DrwDrawsSpriteAndSetsCollision :
    ((0 : Fin 16).val = 0 ∨ (State.reset.setIndex 0xFFFF#16).i.toNat + (0 : Fin 16).val - 1 ≤ 0xFFF) ∧
    ((15 : Fin 16).val = 0 ∨ (State.reset.setIndex 0x0FF1#16).i.toNat + (15 : Fin 16).val - 1 ≤ 0xFFF) ∧
    0 < (15 : Fin 16).val ∧ 0xFFF < (State.reset.setIndex 0x0FF2#16).i.toNat + (15 : Fin 16).val - 1 := by decide

end Sys2Proof.Tests
end

section
/-! SUPPORT. What the host's key events and the instructions do to the key latch and to memory (10_state.md R28,
R38, R42). -/

namespace Sys2Proof.Machine

/-! ## The host's actions, field by field -/

/-- The mask of a key event has the key's own bit and no other. -/
theorem keyMask_getLsbD (k j : Key) : (1#16 <<< k.val).getLsbD j.val = decide (j = k) := by
  have hmask : (1#16 <<< k.val).getLsbD j.val = (decide (k.val < 16) && decide (k.val = j.val)) :=
    BitVec.getLsbD_twoPow k.val j.val
  rw [hmask, decide_eq_true k.isLt, Bool.true_and, decide_eq_decide, Fin.ext_iff, eq_comm]

theorem State.keyDown_key (s : State) (k j : Key) :
    (s.keyDown k).key j.val = if j = k then true else s.key j.val := by
  simp only [State.keyDown, State.key_eq, State.setKeys_keys, BitVec.getLsbD_or, keyMask_getLsbD]
  by_cases h : j = k <;> simp [h]

theorem State.keyUp_key (s : State) (k j : Key) :
    (s.keyUp k).key j.val = if j = k then false else s.key j.val := by
  simp only [State.keyUp, State.key_eq, State.setKeys_keys, BitVec.getLsbD_and, BitVec.getLsbD_not,
    keyMask_getLsbD]
  by_cases h : j = k <;> simp [h]

@[simp] theorem State.keyDown_mem (s : State) (k : Key) : (s.keyDown k).mem = s.mem := rfl
@[simp] theorem State.keyUp_mem (s : State) (k : Key) : (s.keyUp k).mem = s.mem := rfl
@[simp] theorem State.explicitReset_mem (s : State) : s.explicitReset.mem = s.mem := rfl

/-! ## Memory under the shared operations -/

@[simp] theorem State.loadRegs_mem (s : State) (j : Nat) (bs : List Byte) :
    (s.loadRegs j bs).mem = s.mem := by
  rw [State.loadRegs_frame]

theorem State.push_mem {s t : State} {w : Word} (h : s.push w = some t) : t.mem = s.mem := by
  obtain ⟨_, rfl⟩ := State.push_eq_some.1 h
  rfl

theorem State.pop_mem {s t : State} {w : Word} (h : s.pop = some (w, t)) : t.mem = s.mem := by
  obtain ⟨_, _, rfl⟩ := State.pop_eq_some.1 h
  rfl

/-! ## Memory under an instruction's meaning -/

/-- An answer keeps the memory of `s`: if it is a next state, its memory is that of `s`. -/
def KeepsMem (s : State) (r : Result) : Prop := ∀ t, r = .next t → t.mem = s.mem

section
variable {s : State}

theorem keepsMem_next {u : State} (h : u.mem = s.mem) : KeepsMem s (.next u) := by
  rintro t ⟨⟩
  exact h

theorem keepsMem_fault (f : Fault) : KeepsMem s (.fault f) := nofun

theorem keepsMem_guardRange {base : Word} {n : Nat} {r : Result} (h : KeepsMem s r) :
    KeepsMem s (guardRange base n r) :=
  fun t ht => h t (guardRange_eq_next.1 ht).2

theorem keepsMem_guardKey {k : Byte} {r : Result} (h : KeepsMem s r) : KeepsMem s (guardKey k r) :=
  fun t ht => h t (guardKey_eq_next.1 ht).2

theorem keepsMem_execRet : KeepsMem s (execRet s) := by
  unfold execRet
  split
  case h_1 target u hpop => exact keepsMem_next (by simp [State.pop_mem hpop])
  case h_2 => exact keepsMem_fault _

theorem keepsMem_execCallNnn (nnn : Addr12) : KeepsMem s (execCallNnn nnn s) := by
  unfold execCallNnn
  split
  case h_1 u hpush => exact keepsMem_next (by simp [State.push_mem hpush])
  case h_2 => exact keepsMem_fault _

theorem keepsMem_execLdVxK (x : Reg) : KeepsMem s (execLdVxK x s) := by
  obtain ⟨k, -, hnext⟩ | ⟨-, hwait⟩ := execLdVxK_cases x s
  · rw [hnext]; exact keepsMem_next (by simp)
  · rw [hwait]; exact keepsMem_fault _

theorem keepsMem_execLdVxMem (x : Reg) : KeepsMem s (execLdVxMem x s) :=
  keepsMem_guardRange (keepsMem_next (by simp))

end

/-- R28: every instruction but the two stores keeps memory. The last case gathers those whose meaning is one
unguarded next state, made of updates that leave memory alone. -/
theorem exec_keepsMem {i : Instr} (s : State) (hbcd : ∀ x, i ≠ .ldBVx x) (hstore : ∀ x, i ≠ .ldMemVx x) :
    KeepsMem s (exec i s) := by
  cases i with
  | ldBVx x => exact absurd rfl (hbcd x)
  | ldMemVx x => exact absurd rfl (hstore x)
  | ret => exact keepsMem_execRet
  | callNnn nnn => exact keepsMem_execCallNnn nnn
  | ldVxK x => exact keepsMem_execLdVxK x
  | ldVxMem x => exact keepsMem_execLdVxMem x
  | drwVxVyN => exact keepsMem_guardRange (keepsMem_next rfl)
  | skpVx | sknpVx => exact keepsMem_guardKey (keepsMem_next rfl)
  | cls | sysNnn | jpNnn | seVxKk | sneVxKk | seVxVy | ldVxKk | addVxKk | ldVxVy | orVxVy | andVxVy
  | xorVxVy | addVxVy | subVxVy | shrVx | subnVxVy | shlVx | sneVxVy | ldINnn | jpV0Nnn | rndVxKk
  | ldVxDt | ldDtVx | ldStVx | addIVx | ldFVx => exact keepsMem_next rfl

/-- A step keeps memory when the instruction it fetches does: the phases after execution do not write it. -/
theorem step_mem {s t : State} (h : step s = .next t) (hbcd : ∀ x, fetchDecode s ≠ .ok (.ldBVx x))
    (hstore : ∀ x, fetchDecode s ≠ .ok (.ldMemVx x)) : t.mem = s.mem := by
  obtain ⟨i, u, hi, hu, rfl⟩ := step_eq_next.1 h
  rw [State.complete_mem]
  exact exec_keepsMem s (fun x e => hbcd x (e ▸ hi)) (fun x e => hstore x (e ▸ hi)) u hu

/-- Every host action but `load` and `step` keeps memory, an explicit reset included. -/
theorem Session.perform_mem {h h' : Session} {a : HostAction} (hp : h.perform a = .ok h')
    (hload : ∀ bytes, a ≠ .load bytes) (hstep : a ≠ .step) : h'.core.mem = h.core.mem := by
  cases a with
  | load bytes => exact absurd rfl (hload bytes)
  | step => exact absurd rfl hstep
  | reset =>
    cases hp
    exact State.explicitReset_mem _
  | keyDown k =>
    cases hp
    exact State.keyDown_mem _ k
  | keyUp k =>
    cases hp
    exact State.keyUp_mem _ k
  | snapshot =>
    cases hp
    rfl

/-! ## The obligations -/

/-- Settles O25: no arm of `exec` but the two stores' changes memory, and neither do the rest of a step and
the host's other actions. -/
theorem onlyStoresAndLoadWriteMemory : Obligations.OnlyStoresAndLoadWriteMemory :=
  ⟨fun _ s t h hbcd hstore => exec_keepsMem s hbcd hstore t h,
    fun _ _ _ => Session.perform_mem,
    fun _ _ => step_mem⟩

/-- Settles O9: a key event sets or clears the one bit of its mask, is an update of the latch alone, and is
accepted in every session. -/
theorem keyEventsWriteOneLatchBit : Obligations.KeyEventsWriteOneLatchBit :=
  fun s k => ⟨s.keyDown_key k, s.keyUp_key k, rfl, rfl, fun _ => ⟨rfl, rfl⟩⟩

end Sys2Proof.Machine
end

section
/-! SUPPORT. The word a fetch reads, in memory as it stands and after a block of bytes was written (20_memory.md
R53). -/

namespace Sys2Proof.Machine

/-! ## A fetch, and a fetch out of a written block -/

/-- R53, R91: inside `MEM` a fetch reads the byte at `PC` as the high byte and the next as the low byte. -/
theorem fetch_eq_ok {s : State} (h : s.pc.toNat ≤ 0xFFE) :
    fetch s = .ok (joinBytes (s.mem.read s.pc.toNat) (s.mem.read (s.pc.toNat + 1))) := by
  obtain ⟨-, hok⟩ | ⟨hout, -⟩ := fetch_cases s
  · exact hok
  · omega

theorem Memory.read_writeBlock_getElem? {m : Memory} (h : m.wf) {a j : Nat} {bs : List Byte} {b : Byte}
    (hb : bs[j]? = some b) : (m.writeBlock a bs).read (a + j) = b := by
  simp [Memory.read_writeBlock h.1, List.getD_eq_getElem?_getD, hb]

/-- Two neighbours of a block written inside `MEM` are the word a fetch at their address reads, the one at the
lower address the high byte. -/
theorem fetch_of_writeBlock {m : Memory} (hm : m.wf) {u : State} {a j : Nat} {bs : List Byte} {hi lo : Byte}
    (hmem : u.mem = m.writeBlock a bs) (hfits : a + bs.length ≤ 0x1000)
    (hhi : bs[j]? = some hi) (hlo : bs[j + 1]? = some lo) (hpc : u.pc.toNat = a + j) :
    fetch u = .ok (joinBytes hi lo) := by
  obtain ⟨hlt, -⟩ := List.getElem?_eq_some_iff.1 hlo
  rw [fetch_eq_ok (by omega), hmem, hpc, Memory.read_writeBlock_getElem? hm hhi, Nat.add_assoc,
    Memory.read_writeBlock_getElem? hm hlo]

/-! ## The two writers of blocks -/

/-- A load takes an image that fits, writes it at 0x200 and changes nothing else (10_state.md R39). -/
theorem State.load_eq_some {s t : State} {bytes : List Byte} : s.load bytes = some t ↔
    bytes.length ≤ Config.maxImage ∧ t = s.setMem (s.mem.writeBlock Config.progBase bytes) := by
  unfold State.load
  split <;> simp_all [eq_comm]

/-- `Fx55` answers a next state only when its whole block lies in `MEM`, and that state's memory has the block at
`I` (R57, R144). -/
theorem execLdMemVx_mem {x : Reg} {s t : State} (h : execLdMemVx x s = .next t) :
    s.i.toNat + (x.val + 1) ≤ 0x1000 ∧ t.mem = s.mem.writeBlock s.i.toNat (s.regBlock x) := by
  obtain ⟨hrange, hnext⟩ := guardRange_eq_next.1 h
  cases hnext
  exact ⟨(rangeOk_iff.1 hrange).resolve_left (Nat.succ_ne_zero _), rfl⟩

/-! ## R53 of an image and of stored registers -/

/-- A loaded image is fetched as a big-endian stream of words. -/
theorem fetch_of_load {s t u : State} {bytes : List Byte} {j : Nat} {hi lo : Byte} (hm : s.mem.wf)
    (hload : s.load bytes = some t) (hhi : bytes[j]? = some hi) (hlo : bytes[j + 1]? = some lo)
    (hmem : u.mem = t.mem) (hpc : u.pc.toNat = 0x200 + j) : fetch u = .ok (joinBytes hi lo) := by
  obtain ⟨hlen, rfl⟩ := State.load_eq_some.1 hload
  exact fetch_of_writeBlock hm hmem (Nat.add_le_add_left hlen Config.progBase) hhi hlo hpc

/-- Neighbouring registers stored by `Fx55` are fetched as one word, the lower register the high byte. -/
theorem fetch_of_execLdMemVx {x j k : Reg} {s t : State} (hm : s.mem.wf)
    (hexec : execLdMemVx x s = .next t) (hkx : k.val ≤ x.val) (hkj : k.val = j.val + 1)
    (hpc : t.pc.toNat = s.i.toNat + j.val) : fetch t = .ok (joinBytes (s.reg j) (s.reg k)) := by
  obtain ⟨hfits, hmem⟩ := execLdMemVx_mem hexec
  have hhi := s.regBlock_getElem? x j (by omega)
  have hlo := s.regBlock_getElem? x k hkx
  rw [hkj] at hlo
  exact fetch_of_writeBlock hm hmem (by rwa [State.regBlock_length]) hhi hlo hpc

/-! ## The obligation -/

/-- Settles O54: the fetched word joins the bytes at `PC` and `PC + 1`; an image and a stored register block
are both a block of bytes written where the fetch reads. -/
theorem storedWordIsFetchedBigEndian : Obligations.StoredWordIsFetchedBigEndian := by
  refine ⟨fun s hpc => ?memory, fun s t u bytes j hi lo hm hload hhi hlo hmem hpc => ?image,
    fun x j k s t hm hexec hkx hkj hpc => ?registers⟩
  case memory => exact ⟨_, fetch_eq_ok hpc, opHighByte_joinBytes _ _, opLowByte_joinBytes _ _⟩
  case image =>
    exact ⟨_, fetch_of_load hm hload hhi hlo hmem hpc, opHighByte_joinBytes _ _, opLowByte_joinBytes _ _⟩
  case registers => exact ⟨_, fetch_of_execLdMemVx hm hexec hkx hkj hpc, joinBytes_toNat _ _⟩

end Sys2Proof.Machine
end

section
/-! SUPPORT. The fields of one word against each other (30_encoding.md R71): the byte and the address as nibbles,
and the word as its four nibbles. -/

namespace Sys2Proof

/-- `kk` is `y` then `n`. -/
theorem opKK_toNat_eq_nibbles (op : Opcode) : (opKK op).toNat = 16 * (opY op).val + (opN op).val := by
  rw [opKK_toNat, opY_val, opN_val]
  omega

/-- `nnn` is `x` then `kk`. -/
theorem opNNN_toNat_eq_opX_opKK (op : Opcode) :
    (opNNN op).toNat = 256 * (opX op).val + (opKK op).toNat := by
  rw [opNNN_toNat, opX_val, opKK_toNat]
  omega

/-- A word is its four nibbles put together again. -/
@[simp] theorem formatXYN_split (op : Opcode) :
    formatXYN (opHeader op) (opX op) (opY op) (opN op) = op := by
  apply BitVec.eq_of_toNat_eq
  rw [formatXYN_toNat, opHeader_toNat, opX_val, opY_val, opN_val]
  omega

/-! ## The obligation -/

/-- Settles O4: each field is a quotient and remainder of the word as a number, and by these the nibbles make up
the byte, the address and the word. -/
theorem fieldsRecombineToOpcode : Obligations.FieldsRecombineToOpcode := by
  intro op
  have hnnn : (opNNN op).toNat = 256 * (opX op).val + 16 * (opY op).val + (opN op).val := by
    rw [opNNN_toNat_eq_opX_opKK, opKK_toNat_eq_nibbles, Nat.add_assoc]
  exact ⟨opHeader_toNat op, opX_val op, opY_val op, opN_val op, opKK_toNat op, opNNN_toNat op,
    opKK_toNat_eq_nibbles op, hnnn, formatXYN_split op⟩

end Sys2Proof
end

section
/-! SUPPORT. The instruction a step runs (40_step_cycle.md R90 to R97): the one decoded from the word at `PC`. -/

namespace Sys2Proof.Machine

/-- R91, R92: a legal word inside `MEM` at `PC` is the instruction of the step. -/
theorem fetchDecode_eq_ok {s : State} {i : Instr} (hpc : s.pc.toNat ≤ 0xFFE)
    (hdecode : decode (joinBytes (s.mem.read s.pc.toNat) (s.mem.read (s.pc.toNat + 1))) = .ok i) :
    fetchDecode s = .ok i := by
  simp only [fetchDecode, fetch_eq_ok hpc, hdecode]

/-! ## The obligation -/

/-- Settles O14: fetch and decode give the step its instruction, and the step answers as that instruction's
execution does, a next state completed by the tick and the cleared `MOD`. -/
theorem stepRunsTheDecodedInstruction : Obligations.StepRunsTheDecodedInstruction := by
  intro s i hpc hdecode
  have hinstr : fetchDecode s = .ok i := fetchDecode_eq_ok hpc hdecode
  refine ⟨fun t hexec => ?completes, fun f hexec => ?faults⟩
  case completes => exact step_eq_next.2 ⟨i, t, hinstr, hexec, rfl⟩
  case faults => exact step_eq_fault.2 (.inr ⟨i, hinstr, hexec⟩)

end Sys2Proof.Machine
end

section
/-! SUPPORT. A sprite draw as the set of cells it toggles (48_display.md R171 to R175): pixels, columns and rows are
draws put one after another, and they compose because their cells are disjoint. -/

namespace Sys2Proof.Machine

/-- `q` is the blit `p` with exactly the cells of `S` toggled, and a collision besides `p`'s own exactly when one of
them was lit in `p`. -/
structure Blit.Toggles (p q : Blit) (S : Set Cell) : Prop where
  flips : ∀ c ∈ S, q.fb.cell c = !p.fb.cell c
  keeps : ∀ c ∉ S, q.fb.cell c = p.fb.cell c
  collides : q.collision = true ↔ p.collision = true ∨ ∃ c ∈ S, p.fb.cell c = true

theorem Blit.toggles_empty (p : Blit) : p.Toggles p ∅ :=
  ⟨by simp, by simp, by simp⟩

/-- Two draws on disjoint cells are one draw on the cells of both: what is lit when the second one toggles it was
lit before the first. -/
theorem Blit.Toggles.trans {p q u : Blit} {S T : Set Cell} (hST : Disjoint S T) (hS : p.Toggles q S)
    (hT : q.Toggles u T) : p.Toggles u (S ∪ T) := by
  have notT : ∀ c ∈ S, c ∉ T := fun _ hc => Set.disjoint_left.1 hST hc
  have keptOnT : ∀ c ∈ T, q.fb.cell c = p.fb.cell c := fun c hc => hS.keeps c fun h => notT c h hc
  refine ⟨fun c hc => ?flips, fun c hc => ?keeps, ?collides⟩
  case flips =>
    rcases hc with hc | hc
    · rw [hT.keeps c (notT c hc), hS.flips c hc]
    · rw [hT.flips c hc, keptOnT c hc]
  case keeps =>
    rw [Set.mem_union, not_or] at hc
    rw [hT.keeps c hc.2, hS.keeps c hc.1]
  case collides =>
    have litInT : (∃ c ∈ T, q.fb.cell c = true) ↔ ∃ c ∈ T, p.fb.cell c = true :=
      exists_congr fun c => and_congr_right fun hc => by rw [keptOnT c hc]
    simp only [hT.collides, hS.collides, litInT, Set.mem_union, or_and_right, exists_or, or_assoc]

/-! ## One pixel -/

theorem Blit.plot_toggles (p : Blit) (c : Cell) (bit : Bool) :
    p.Toggles (p.plot c bit) {d | bit = true ∧ d = c} := by
  refine ⟨fun d hd => ?flips, fun d hd => ?keeps, ?collides⟩
  case flips => exact (p.plot_spec c d bit).1.trans (if_pos hd)
  case keeps => exact (p.plot_spec c d bit).1.trans (if_neg hd)
  case collides => simp [(p.plot_spec c c bit).2, and_assoc]

/-- R175 for any place: pixels less than a screen apart in both directions have different cells. -/
theorem targetCell_inj {px py r b r' b' : Nat} (hr : r < 32) (hr' : r' < 32) (hb : b < 64) (hb' : b' < 64)
    (h : targetCell px py r b = targetCell px py r' b') : r = r' ∧ b = b' := by
  have hval : (py + r) % 32 * 64 + (px + b) % 64 = (py + r') % 32 * 64 + (px + b') % 64 := congrArg Fin.val h
  omega

/-! ## One row -/

/-- The cells targeted by the set bits of a sprite row in its first `n` columns. -/
def rowCells (px py r : Nat) (row : Byte) (n : Nat) : Set Cell :=
  {c | ∃ b < n, spriteBit row b = true ∧ c = targetCell px py r b}

theorem rowCells_zero (px py r : Nat) (row : Byte) : rowCells px py r row 0 = ∅ := by
  simp [rowCells]

theorem rowCells_succ (px py r : Nat) (row : Byte) (n : Nat) :
    rowCells px py r row (n + 1) =
      rowCells px py r row n ∪ {c | spriteBit row n = true ∧ c = targetCell px py r n} :=
  Set.ext fun _ => Nat.exists_lt_succ_right

theorem disjoint_rowCells_column {px py r n : Nat} {row : Byte} (hr : r < 32) (hn : n < 64) :
    Disjoint (rowCells px py r row n) {c | spriteBit row n = true ∧ c = targetCell px py r n} := by
  refine Set.disjoint_left.2 fun c hrow hcol => ?_
  obtain ⟨b, hb, -, rfl⟩ := hrow
  exact absurd (targetCell_inj hr hr (by omega) hn hcol.2).2 (by omega)

/-- Columns 0 to `n - 1` of a row, pixel after pixel. -/
theorem Blit.foldl_plot_toggles (p : Blit) {px py r : Nat} (row : Byte) (hr : r < 32) {n : Nat} (hn : n ≤ 64) :
    p.Toggles ((List.range n).foldl (fun q b => q.plot (targetCell px py r b) (spriteBit row b)) p)
      (rowCells px py r row n) := by
  induction n with
  | zero => exact rowCells_zero px py r row ▸ p.toggles_empty
  | succ n ih =>
    rw [List.range_succ, List.foldl_append, rowCells_succ]
    exact (ih (by omega)).trans (disjoint_rowCells_column hr hn) (Blit.plot_toggles _ _ _)

theorem Blit.row_toggles (p : Blit) {px py r : Nat} (row : Byte) (hr : r < 32) :
    p.Toggles (p.row px py r row) (rowCells px py r row 8) :=
  p.foldl_plot_toggles row hr (by decide)

/-! ## All rows -/

/-- The cells targeted by the set bits of sprite rows numbered from `r`. -/
def rowsCells (px py r : Nat) (rows : List Byte) : Set Cell :=
  {c | ∃ i row, rows[i]? = some row ∧ c ∈ rowCells px py (r + i) row 8}

theorem rowsCells_nil (px py r : Nat) : rowsCells px py r [] = ∅ := by
  simp [rowsCells]

theorem rowsCells_cons (px py r : Nat) (row : Byte) (rows : List Byte) :
    rowsCells px py r (row :: rows) = rowCells px py r row 8 ∪ rowsCells px py (r + 1) rows := by
  ext c
  constructor
  · rintro ⟨_ | i, row', hrow, hc⟩
    · obtain rfl : row = row' := by simpa using hrow
      exact .inl hc
    · exact .inr ⟨i, row', hrow, by rwa [Nat.add_assoc, Nat.add_comm 1]⟩
  · rintro (hc | ⟨i, row', hrow, hc⟩)
    · exact ⟨0, row, rfl, hc⟩
    · exact ⟨i + 1, row', hrow, by rwa [Nat.add_assoc, Nat.add_comm 1] at hc⟩

theorem disjoint_rowCells_rowsCells {px py r : Nat} (row : Byte) {rows : List Byte} (h : r + 1 + rows.length ≤ 32) :
    Disjoint (rowCells px py r row 8) (rowsCells px py (r + 1) rows) := by
  refine Set.disjoint_left.2 fun c hrow hrows => ?_
  obtain ⟨b, hb, -, rfl⟩ := hrow
  obtain ⟨i, row', hi, b', hb', -, hcell⟩ := hrows
  obtain ⟨hlen, -⟩ := List.getElem?_eq_some_iff.1 hi
  exact absurd (targetCell_inj (by omega) (by omega) (by omega) (by omega) hcell).1 (by omega)

theorem Blit.rows_toggles {px py : Nat} (rows : List Byte) (p : Blit) (r : Nat) (h : r + rows.length ≤ 32) :
    p.Toggles (p.rows px py r rows) (rowsCells px py r rows) := by
  induction rows generalizing p r with
  | nil => exact rowsCells_nil px py r ▸ p.toggles_empty
  | cons row rows ih =>
    rw [List.length_cons] at h
    rw [rowsCells_cons]
    exact (p.row_toggles row (by omega)).trans (disjoint_rowCells_rowsCells row (by omega))
      (ih _ (r + 1) (by omega))

/-! ## A whole draw -/

/-- The cells of a whole sprite are those the specification's cover relation names (R172, R173). -/
theorem rowsCells_zero (px py : Nat) (rows : List Byte) :
    rowsCells px py 0 rows = {c | SpriteCovers px py rows c} := by
  ext c
  constructor
  · rintro ⟨r, row, hrow, b, hb, hbit, rfl⟩
    exact ⟨r, b, hb, ⟨row, hrow, hbit⟩, by simp⟩
  · rintro ⟨r, b, hb, ⟨row, hrow, hbit⟩, hc⟩
    exact ⟨r, row, hrow, b, hb, hbit, Fin.ext (by simpa using hc)⟩

/-- A sprite of at most the screen's height toggles exactly the cells it covers. -/
theorem FrameBuffer.draw_toggles (fb : FrameBuffer) (px py : Nat) {rows : List Byte} (h : rows.length ≤ 32) :
    Blit.Toggles ⟨fb, false⟩ (fb.draw px py rows) {c | SpriteCovers px py rows c} := by
  rw [← rowsCells_zero]
  exact Blit.rows_toggles rows _ 0 (by omega)

/-! ## The obligation -/

/-- Settles O57: the draw is its pixels one after another, and these have distinct cells (R175), so each covered
cell is toggled once, and is lit when toggled exactly if it was lit before the draw. -/
theorem drawXorsSpriteAndReportsCollision : Obligations.DrawXorsSpriteAndReportsCollision := by
  intro fb px py rows hlen
  obtain ⟨flips, keeps, collides⟩ := fb.draw_toggles px py (rows := rows) (by omega)
  exact ⟨fun c => ⟨flips c, keeps c⟩, by simpa using collides⟩

end Sys2Proof.Machine
end

section
/-! SUPPORT. The call stack as it fills up (60_exceptions.md R182): one call, a list of calls, and the report of a
step that runs a call. -/

namespace Sys2Proof.Machine

/-! ## One call -/

/-- R123, R182: a call pushes the address behind it and jumps, or finds the stack full and faults. -/
theorem exec_callNnn_cases (nnn : Addr12) (s : State) :
    (∃ t, s.push (s.pc + 2#16) = some t ∧ exec (.callNnn nnn) s = .next (t.jump (zextAddr nnn))) ∨
    (s.sp.val = 16 ∧ exec (.callNnn nnn) s = .fault .stackOverflow) := by
  have hexec : exec (.callNnn nnn) s = execCallNnn nnn s := rfl
  rw [hexec, execCallNnn]
  cases hpush : s.push (s.pc + 2#16) with
  | some t => exact .inl ⟨t, rfl, rfl⟩
  | none => exact .inr ⟨State.push_eq_none.1 hpush, rfl⟩

theorem State.push_sp {s t : State} {w : Word} (h : s.push w = some t) : t.sp.val = s.sp.val + 1 := by
  obtain ⟨-, rfl⟩ := State.push_eq_some.1 h
  rfl

/-- A call that completes uses one stack entry more. -/
theorem exec_callNnn_sp {nnn : Addr12} {s t : State} (h : exec (.callNnn nnn) s = .next t) :
    t.sp.val = s.sp.val + 1 := by
  obtain ⟨u, hpush, hnext⟩ | ⟨-, hfault⟩ := exec_callNnn_cases nnn s
  · obtain rfl : u.jump (zextAddr nnn) = t := by simpa [hnext] using h
    rw [State.jump_sp, State.push_sp hpush]
  · simp [hfault] at h

/-- R182: a call overflows exactly when all 16 entries are in use. -/
theorem exec_callNnn_eq_stackOverflow {nnn : Addr12} {s : State} :
    exec (.callNnn nnn) s = .fault .stackOverflow ↔ s.sp.val = 16 := by
  obtain ⟨t, hpush, hnext⟩ | ⟨hfull, hfault⟩ := exec_callNnn_cases nnn s
  · have hsp := State.push_sp hpush
    simp only [hnext, reduceCtorEq, false_iff]
    omega
  · simp [hfault, hfull]

/-! ## A list of calls -/

/-- Calls one after another use one entry each, or are more than the free entries and overflow. -/
theorem callAll_cases (s : State) (targets : List Addr12) :
    (∃ t, callAll s targets = .next t ∧ t.sp.val = s.sp.val + targets.length) ∨
    (16 < s.sp.val + targets.length ∧ callAll s targets = .fault .stackOverflow) := by
  induction targets generalizing s with
  | nil => exact .inl ⟨s, rfl, rfl⟩
  | cons nnn rest ih =>
    rw [List.length_cons]
    obtain ⟨t, -, hnext⟩ | ⟨hfull, hfault⟩ := exec_callNnn_cases nnn s
    · have hrest : callAll s (nnn :: rest) = callAll (t.jump (zextAddr nnn)) rest := by
        simp only [callAll, hnext]
      have hsp := exec_callNnn_sp hnext
      have hcount : s.sp.val + (rest.length + 1) = (t.jump (zextAddr nnn)).sp.val + rest.length := by omega
      rw [hrest, hcount]
      exact ih _
    · exact .inr ⟨by omega, by simp [callAll, hfault]⟩

/-! ## The report of the step -/

theorem stepReport_of_exec_next {i : Instr} {s t : State} (hinstr : fetchDecode s = .ok i)
    (hexec : exec i s = .next t) : stepReport s = ⟨t.complete, fetchedWord s, .ok, t.tick.frameOut⟩ := by
  simp only [stepReport, hinstr, hexec]

theorem stepReport_of_exec_fault {i : Instr} {s : State} {f : Fault} (hinstr : fetchDecode s = .ok i)
    (hexec : exec i s = .fault f) : stepReport s = ⟨s, fetchedWord s, .ofFault f, none⟩ := by
  simp only [stepReport, hinstr, hexec]

/-- A step that runs a call reports `StackOverflow` exactly when all 16 entries are in use. -/
theorem stepReport_call_result {nnn : Addr12} {s : State} (hinstr : fetchDecode s = .ok (.callNnn nnn)) :
    (stepReport s).result = .fault .stackOverflow ↔ s.sp.val = 16 := by
  rw [← exec_callNnn_eq_stackOverflow (nnn := nnn)]
  obtain ⟨t, -, hnext⟩ | ⟨-, hfault⟩ := exec_callNnn_cases nnn s
  · simp [stepReport_of_exec_next hinstr hnext, hnext]
  · simp [stepReport_of_exec_fault hinstr hfault, hfault, StepResult.ofFault]

/-! ## The obligation -/

/-- Settles O39: each call that completes raises `SP` by one, so from 0 the number of calls decides between a
next state and the overflow; a step's overflow is the call's, and a faulting step reports the state before it. -/
theorem sixteenCallsSucceedAndSeventeenthFaults : Obligations.SixteenCallsSucceedAndSeventeenthFaults := by
  intro s targets hempty
  refine ⟨fun hfew => ?few, fun hmany => ?many,
    fun u nnn hinstr => ⟨stepReport_call_result hinstr, fun hfull => ?kept⟩⟩
  case few =>
    obtain ⟨t, hnext, hsp⟩ | ⟨hover, -⟩ := callAll_cases s targets
    · rw [hempty, Nat.zero_add] at hsp
      exact ⟨t, hnext, hsp, fun nnn hlen => exec_callNnn_eq_stackOverflow.2 (hsp.trans hlen)⟩
    · omega
  case many =>
    obtain ⟨t, -, hsp⟩ | ⟨-, hfault⟩ := callAll_cases s targets
    · omega
    · exact hfault
  case kept =>
    rw [stepReport_of_exec_fault hinstr (exec_callNnn_eq_stackOverflow.2 hfull)]

end Sys2Proof.Machine
end

section
/-! SUPPORT. The decoder as a relation between words and answers, one rule per row of the opcode table
(30_encoding.md R74 to R81), and a word put together again from the fields of each format (R72). -/

namespace Sys2Proof

open Machine

/-! ## The relation -/

/-- What the decoder answers on a word: the instruction of the row whose fields the word has, or its rejection. -/
inductive DecodesTo (op : Opcode) : Except DecodeReject Instr → Prop where
  | cls (hh : opHeader op = 0x0#4) (hn : opN op = 0x0) : DecodesTo op (.ok .cls)
  | ret (hh : opHeader op = 0x0#4) (hn : opN op = 0xE) : DecodesTo op (.ok .ret)
  | sysNnn (hh : opHeader op = 0x0#4) (hcls : opN op ≠ 0x0) (hret : opN op ≠ 0xE) :
      DecodesTo op (.ok (.sysNnn (opNNN op)))
  | jpNnn (hh : opHeader op = 0x1#4) : DecodesTo op (.ok (.jpNnn (opNNN op)))
  | callNnn (hh : opHeader op = 0x2#4) : DecodesTo op (.ok (.callNnn (opNNN op)))
  | seVxKk (hh : opHeader op = 0x3#4) : DecodesTo op (.ok (.seVxKk (opX op) (opKK op)))
  | sneVxKk (hh : opHeader op = 0x4#4) : DecodesTo op (.ok (.sneVxKk (opX op) (opKK op)))
  | seVxVy (hh : opHeader op = 0x5#4) : DecodesTo op (.ok (.seVxVy (opX op) (opY op)))
  | ldVxKk (hh : opHeader op = 0x6#4) : DecodesTo op (.ok (.ldVxKk (opX op) (opKK op)))
  | addVxKk (hh : opHeader op = 0x7#4) : DecodesTo op (.ok (.addVxKk (opX op) (opKK op)))
  | ldVxVy (hh : opHeader op = 0x8#4) (hn : opN op = 0x0) : DecodesTo op (.ok (.ldVxVy (opX op) (opY op)))
  | orVxVy (hh : opHeader op = 0x8#4) (hn : opN op = 0x1) : DecodesTo op (.ok (.orVxVy (opX op) (opY op)))
  | andVxVy (hh : opHeader op = 0x8#4) (hn : opN op = 0x2) : DecodesTo op (.ok (.andVxVy (opX op) (opY op)))
  | xorVxVy (hh : opHeader op = 0x8#4) (hn : opN op = 0x3) : DecodesTo op (.ok (.xorVxVy (opX op) (opY op)))
  | addVxVy (hh : opHeader op = 0x8#4) (hn : opN op = 0x4) : DecodesTo op (.ok (.addVxVy (opX op) (opY op)))
  | subVxVy (hh : opHeader op = 0x8#4) (hn : opN op = 0x5) : DecodesTo op (.ok (.subVxVy (opX op) (opY op)))
  | shrVx (hh : opHeader op = 0x8#4) (hn : opN op = 0x6) : DecodesTo op (.ok (.shrVx (opX op) (opY op)))
  | subnVxVy (hh : opHeader op = 0x8#4) (hn : opN op = 0x7) : DecodesTo op (.ok (.subnVxVy (opX op) (opY op)))
  | shlVx (hh : opHeader op = 0x8#4) (hn : opN op = 0xE) : DecodesTo op (.ok (.shlVx (opX op) (opY op)))
  | sneVxVy (hh : opHeader op = 0x9#4) : DecodesTo op (.ok (.sneVxVy (opX op) (opY op)))
  | ldINnn (hh : opHeader op = 0xA#4) : DecodesTo op (.ok (.ldINnn (opNNN op)))
  | jpV0Nnn (hh : opHeader op = 0xB#4) : DecodesTo op (.ok (.jpV0Nnn (opNNN op)))
  | rndVxKk (hh : opHeader op = 0xC#4) : DecodesTo op (.ok (.rndVxKk (opX op) (opKK op)))
  | drwVxVyN (hh : opHeader op = 0xD#4) : DecodesTo op (.ok (.drwVxVyN (opX op) (opY op) (opN op)))
  | skpVx (hh : opHeader op = 0xE#4) (hkk : opKK op = 0x9E#8) : DecodesTo op (.ok (.skpVx (opX op)))
  | sknpVx (hh : opHeader op = 0xE#4) (hkk : opKK op = 0xA1#8) : DecodesTo op (.ok (.sknpVx (opX op)))
  | ldVxDt (hh : opHeader op = 0xF#4) (hkk : opKK op = 0x07#8) : DecodesTo op (.ok (.ldVxDt (opX op)))
  | ldVxK (hh : opHeader op = 0xF#4) (hkk : opKK op = 0x0A#8) : DecodesTo op (.ok (.ldVxK (opX op)))
  | ldDtVx (hh : opHeader op = 0xF#4) (hkk : opKK op = 0x15#8) : DecodesTo op (.ok (.ldDtVx (opX op)))
  | ldStVx (hh : opHeader op = 0xF#4) (hkk : opKK op = 0x18#8) : DecodesTo op (.ok (.ldStVx (opX op)))
  | addIVx (hh : opHeader op = 0xF#4) (hkk : opKK op = 0x1E#8) : DecodesTo op (.ok (.addIVx (opX op)))
  | ldFVx (hh : opHeader op = 0xF#4) (hkk : opKK op = 0x29#8) : DecodesTo op (.ok (.ldFVx (opX op)))
  | ldBVx (hh : opHeader op = 0xF#4) (hkk : opKK op = 0x33#8) : DecodesTo op (.ok (.ldBVx (opX op)))
  | ldMemVx (hh : opHeader op = 0xF#4) (hkk : opKK op = 0x55#8) : DecodesTo op (.ok (.ldMemVx (opX op)))
  | ldVxMem (hh : opHeader op = 0xF#4) (hkk : opKK op = 0x65#8) : DecodesTo op (.ok (.ldVxMem (opX op)))
  | illegal (hill : IllegalWord op) : DecodesTo op (.error (.decodeError op))

/-- R75: group 0 is selected on its trailing nibble. -/
theorem decodeGroup0_eq (op : Opcode) : decodeGroup0 op =
    if opN op = 0x0 then .cls else if opN op = 0xE then .ret else .sysNnn (opNNN op) := by
  unfold decodeGroup0
  split
  case h_1 hn => rw [if_pos (Fin.ext hn)]
  case h_2 hn =>
    obtain hret : opN op = 0xE := Fin.ext hn
    simp [hret]
  case h_3 hcls hret => rw [if_neg fun e => hcls (congrArg Fin.val e), if_neg fun e => hret (congrArg Fin.val e)]

theorem decodeGroup0_decodesTo {op : Opcode} (hh : opHeader op = 0x0#4) :
    DecodesTo op (.ok (decodeGroup0 op)) := by
  rw [decodeGroup0_eq]
  split_ifs with hcls hret
  · exact .cls hh hcls
  · exact .ret hh hret
  · exact .sysNnn hh hcls hret

theorem decodeGroup8_decodesTo {op : Opcode} (hh : opHeader op = 0x8#4) :
    DecodesTo op (decodeGroup8 op) := by
  unfold decodeGroup8
  split
  case h_1 hn => exact .ldVxVy hh (Fin.ext hn)
  case h_2 hn => exact .orVxVy hh (Fin.ext hn)
  case h_3 hn => exact .andVxVy hh (Fin.ext hn)
  case h_4 hn => exact .xorVxVy hh (Fin.ext hn)
  case h_5 hn => exact .addVxVy hh (Fin.ext hn)
  case h_6 hn => exact .subVxVy hh (Fin.ext hn)
  case h_7 hn => exact .shrVx hh (Fin.ext hn)
  case h_8 hn => exact .subnVxVy hh (Fin.ext hn)
  case h_9 hn => exact .shlVx hh (Fin.ext hn)
  case h_10 h0 h1 h2 h3 h4 h5 h6 h7 hE =>
    refine .illegal (.inl ⟨hh, ?_⟩)
    simp only [List.mem_cons, List.not_mem_nil, or_false, imp_false] at *
    omega

theorem decodeGroupE_decodesTo {op : Opcode} (hh : opHeader op = 0xE#4) :
    DecodesTo op (decodeGroupE op) := by
  unfold decodeGroupE
  split
  case h_1 hkk => exact .skpVx hh (BitVec.eq_of_toNat_eq hkk)
  case h_2 hkk => exact .sknpVx hh (BitVec.eq_of_toNat_eq hkk)
  case h_3 =>
    refine .illegal (.inr (.inl ⟨hh, ?_⟩))
    simp_all [← BitVec.toNat_inj]

theorem decodeGroupF_decodesTo {op : Opcode} (hh : opHeader op = 0xF#4) :
    DecodesTo op (decodeGroupF op) := by
  unfold decodeGroupF
  split
  case h_1 hkk => exact .ldVxDt hh (BitVec.eq_of_toNat_eq hkk)
  case h_2 hkk => exact .ldVxK hh (BitVec.eq_of_toNat_eq hkk)
  case h_3 hkk => exact .ldDtVx hh (BitVec.eq_of_toNat_eq hkk)
  case h_4 hkk => exact .ldStVx hh (BitVec.eq_of_toNat_eq hkk)
  case h_5 hkk => exact .addIVx hh (BitVec.eq_of_toNat_eq hkk)
  case h_6 hkk => exact .ldFVx hh (BitVec.eq_of_toNat_eq hkk)
  case h_7 hkk => exact .ldBVx hh (BitVec.eq_of_toNat_eq hkk)
  case h_8 hkk => exact .ldMemVx hh (BitVec.eq_of_toNat_eq hkk)
  case h_9 hkk => exact .ldVxMem hh (BitVec.eq_of_toNat_eq hkk)
  case h_10 =>
    refine .illegal (.inr (.inr ⟨hh, ?_⟩))
    simp_all [← BitVec.toNat_inj]

/-- The decoder's answer is the one the relation gives. -/
theorem decode_decodesTo (op : Opcode) : DecodesTo op (decode op) := by
  unfold decode
  split
  case h_1 hh => exact decodeGroup0_decodesTo (BitVec.eq_of_toNat_eq hh)
  case h_2 hh => exact .jpNnn (BitVec.eq_of_toNat_eq hh)
  case h_3 hh => exact .callNnn (BitVec.eq_of_toNat_eq hh)
  case h_4 hh => exact .seVxKk (BitVec.eq_of_toNat_eq hh)
  case h_5 hh => exact .sneVxKk (BitVec.eq_of_toNat_eq hh)
  case h_6 hh => exact .seVxVy (BitVec.eq_of_toNat_eq hh)
  case h_7 hh => exact .ldVxKk (BitVec.eq_of_toNat_eq hh)
  case h_8 hh => exact .addVxKk (BitVec.eq_of_toNat_eq hh)
  case h_9 hh => exact decodeGroup8_decodesTo (BitVec.eq_of_toNat_eq hh)
  case h_10 hh => exact .sneVxVy (BitVec.eq_of_toNat_eq hh)
  case h_11 hh => exact .ldINnn (BitVec.eq_of_toNat_eq hh)
  case h_12 hh => exact .jpV0Nnn (BitVec.eq_of_toNat_eq hh)
  case h_13 hh => exact .rndVxKk (BitVec.eq_of_toNat_eq hh)
  case h_14 hh => exact .drwVxVyN (BitVec.eq_of_toNat_eq hh)
  case h_15 hh => exact decodeGroupE_decodesTo (BitVec.eq_of_toNat_eq hh)
  case h_16 =>
    have hh : (opHeader op).toNat = 0xF := by
      simp only [imp_false] at *
      omega
    exact decodeGroupF_decodesTo (BitVec.eq_of_toNat_eq hh)

end Sys2Proof
end

section
/-! SUPPORT. Decoding against encoding (30_encoding.md R72 to R84). -/

namespace Sys2Proof

open Machine

/-! ## A word is its fields put together in the format of its group -/

theorem formatNNN_split (op : Opcode) : formatNNN (opHeader op) (opNNN op) = op := by
  apply BitVec.eq_of_toNat_eq
  rw [formatNNN_toNat, opHeader_toNat, opNNN_toNat]
  omega

theorem formatXKK_split (op : Opcode) : formatXKK (opHeader op) (opX op) (opKK op) = op := by
  apply BitVec.eq_of_toNat_eq
  rw [formatXKK_toNat, opHeader_toNat, opX_val, opKK_toNat]
  omega

section
variable {op : Opcode} {h : BitVec 4}

theorem formatNNN_of_header (hh : opHeader op = h) : formatNNN h (opNNN op) = op :=
  hh ▸ formatNNN_split op

theorem formatXKK_of_header (hh : opHeader op = h) : formatXKK h (opX op) (opKK op) = op :=
  hh ▸ formatXKK_split op

theorem formatXKK_of_selector {kk : Byte} (hh : opHeader op = h) (hkk : opKK op = kk) :
    formatXKK h (opX op) kk = op :=
  hkk ▸ formatXKK_of_header hh

theorem formatXYN_of_selector {n : Fin 16} (hh : opHeader op = h) (hn : opN op = n) :
    formatXYN h (opX op) (opY op) n = op :=
  hh ▸ hn ▸ formatXYN_split op

end

/-! ## `SYS` -/

/-- A `SYS` is well formed when the trailing nibble of its address is neither `CLS`'s nor `RET`'s. -/
theorem sysNibbleOk_iff (nnn : Addr12) :
    sysNibbleOk nnn = true ↔ nnn.toNat % 16 ≠ 0 ∧ nnn.toNat % 16 ≠ 14 := by
  simp [sysNibbleOk, ← BitVec.toNat_inj]

theorem sysNibbleOk_opNNN {op : Opcode} (hcls : opN op ≠ 0x0) (hret : opN op ≠ 0xE) :
    sysNibbleOk (opNNN op) = true := by
  rw [ne_eq, Fin.ext_iff, opN_val] at hcls hret
  rw [sysNibbleOk_iff, opNNN_toNat, Nat.mod_mod_of_dvd _ (by decide)]
  exact ⟨hcls, hret⟩

theorem decode_group0 {op : Opcode} (hh : opHeader op = 0x0#4) : decode op = .ok (decodeGroup0 op) := by
  simp [decode, hh]

/-! ## Decoding a canonical word -/

theorem decode_encode_sysNnn {nnn : Addr12} (hwf : sysNibbleOk nnn = true) :
    decode (formatNNN 0x0#4 nnn) = .ok (.sysNnn nnn) := by
  obtain ⟨hcls, hret⟩ := (sysNibbleOk_iff nnn).1 hwf
  rw [← opN_formatNNN 0x0#4] at hcls hret
  rw [decode_group0 (opHeader_formatNNN _ _), decodeGroup0_eq, if_neg fun e => hcls (congrArg Fin.val e),
    if_neg fun e => hret (congrArg Fin.val e), opNNN_formatNNN]

/-- R84: the decoder gives back every well-formed instruction from its canonical word, whose fields select the
arm the instruction stands in and are its operands. -/
theorem decode_encode {i : Instr} (hwf : i.wf = true) : decode (encode i) = .ok i := by
  cases i with
  | cls | ret => rfl
  | sysNnn nnn => exact decode_encode_sysNnn hwf
  | ldVxVy | orVxVy | andVxVy | xorVxVy | addVxVy | subVxVy | shrVx | subnVxVy | shlVx =>
    simp [encode, decode, decodeGroup8]
  | skpVx | sknpVx => simp [encode, decode, decodeGroupE]
  | ldVxDt | ldVxK | ldDtVx | ldStVx | addIVx | ldFVx | ldBVx | ldMemVx | ldVxMem =>
    simp [encode, decode, decodeGroupF]
  | _ => simp [encode, decode]

/-- R53, R70: so do the two bytes of the word at the head of any bytes. -/
theorem decodeBytes_encodeBytes {i : Instr} (hwf : i.wf = true) (rest : List Byte) :
    decodeBytes (encodeBytes i ++ rest) = .ok (i, rest) := by
  simp [encodeBytes, decodeBytes, decode_encode hwf, Except.map]

/-! ## Encoding a decoded word -/

/-- R82: the canonical word of a decoded instruction is the word it was decoded from, unless that has bits the
decoder ignores. -/
theorem encode_of_decodesTo {op : Opcode} {i : Instr} (h : DecodesTo op (.ok i)) : i.wf = true ∧
    (encode i = op ∨
      (i = .cls ∧ opHeader op = 0x0#4 ∧ opN op = 0x0) ∨
      (i = .ret ∧ opHeader op = 0x0#4 ∧ opN op = 0xE) ∨
      (i = .seVxVy (opX op) (opY op) ∧ opHeader op = 0x5#4 ∧ opN op ≠ 0x0) ∨
      (i = .sneVxVy (opX op) (opY op) ∧ opHeader op = 0x9#4 ∧ opN op ≠ 0x0)) := by
  cases h with
  | cls hh hn => exact ⟨rfl, .inr (.inl ⟨rfl, hh, hn⟩)⟩
  | ret hh hn => exact ⟨rfl, .inr (.inr (.inl ⟨rfl, hh, hn⟩))⟩
  | sysNnn hh hcls hret => exact ⟨sysNibbleOk_opNNN hcls hret, .inl (formatNNN_of_header hh)⟩
  | seVxVy hh =>
    by_cases hn : opN op = 0x0
    · exact ⟨rfl, .inl (formatXYN_of_selector hh hn)⟩
    · exact ⟨rfl, .inr (.inr (.inr (.inl ⟨rfl, hh, hn⟩)))⟩
  | sneVxVy hh =>
    by_cases hn : opN op = 0x0
    · exact ⟨rfl, .inl (formatXYN_of_selector hh hn)⟩
    · exact ⟨rfl, .inr (.inr (.inr (.inr ⟨rfl, hh, hn⟩)))⟩
  | jpNnn hh | callNnn hh | ldINnn hh | jpV0Nnn hh => exact ⟨rfl, .inl (formatNNN_of_header hh)⟩
  | seVxKk hh | sneVxKk hh | ldVxKk hh | addVxKk hh | rndVxKk hh =>
    exact ⟨rfl, .inl (formatXKK_of_header hh)⟩
  | drwVxVyN hh => exact ⟨rfl, .inl (formatXYN_of_selector hh rfl)⟩
  | ldVxVy hh hn | orVxVy hh hn | andVxVy hh hn | xorVxVy hh hn | addVxVy hh hn | subVxVy hh hn | shrVx hh hn
  | subnVxVy hh hn | shlVx hh hn => exact ⟨rfl, .inl (formatXYN_of_selector hh hn)⟩
  | skpVx hh hkk | sknpVx hh hkk | ldVxDt hh hkk | ldVxK hh hkk | ldDtVx hh hkk | ldStVx hh hkk
  | addIVx hh hkk | ldFVx hh hkk | ldBVx hh hkk | ldMemVx hh hkk | ldVxMem hh hkk =>
    exact ⟨rfl, .inl (formatXKK_of_selector hh hkk)⟩

/-! ## The obligations -/

/-- Settles O1: each canonical word has the fields that select its instruction's arm of the decoder. -/
theorem decodeInvertsEncode : Obligations.DecodeInvertsEncode :=
  fun _ hwf => ⟨decode_encode hwf, decodeBytes_encodeBytes hwf⟩

/-- Settles O2: in every group the word is the format of its own fields, and only `CLS`, `RET`, `5xy0` and `9xy0`
have bits that are no field. -/
theorem nonCanonicalSpellingsAreOnlyThese : Obligations.NonCanonicalSpellingsAreOnlyThese :=
  fun op _ h => encode_of_decodesTo (h ▸ decode_decodesTo op)

end Sys2Proof
end

section
/-! SUPPORT. The opcode table's rows as conditions on the fields of a word (30_encoding.md R80). -/

namespace Sys2Proof

open Machine

theorem and_nibbleMask_eq_format (op : Opcode) :
    op &&& 0xF00F#16 = formatXYN (opHeader op) 0 0 (opN op) := by
  rw [and_nibbleMask]
  apply BitVec.eq_of_toNat_eq
  rw [formatXYN_toNat, append_toNat, append_toNat]
  show _ + (opN op).val = _
  simp
  omega

section
variable {op p : Opcode} {name : String}

/-- A row without a selector asks for its header. -/
theorem selects_headerMask (hp : p &&& 0xF000#16 = p) :
    (⟨name, 0xF000#16, p⟩ : OpcodeRow).selects op = decide (opHeader op = p.extractLsb' 12 4) := by
  have hform (w : Opcode) : w &&& 0xF000#16 = formatNNN (opHeader w) 0x000#12 := and_headerMask w
  rw [OpcodeRow.selects, Bool.eq_iff_iff, beq_iff_eq, decide_eq_true_iff]
  refine ⟨fun h => ?_, fun h => ?_⟩
  · have := congrArg opHeader h
    rwa [hform, opHeader_formatNNN] at this
  · rw [← hp, hform op, hform p]
    exact congrArg (formatNNN · _) h

/-- A row of groups 0 and 8 asks for its header and its trailing nibble. -/
theorem selects_nibbleMask (hp : p &&& 0xF00F#16 = p) :
    (⟨name, 0xF00F#16, p⟩ : OpcodeRow).selects op =
      decide (opHeader op = p.extractLsb' 12 4 ∧ (opN op).val = (p.extractLsb' 0 4).toNat) := by
  rw [OpcodeRow.selects, Bool.eq_iff_iff, beq_iff_eq, decide_eq_true_iff]
  refine ⟨fun h => ?_, fun ⟨hh, hn⟩ => ?_⟩
  · have hfields := (and_nibbleMask_eq_format op).symm.trans h
    rw [← show _ = p from hfields]
    exact ⟨(opHeader_formatXYN _ _ _ _).symm, congrArg Fin.val (opN_formatXYN _ _ _ _).symm⟩
  · have hn : opN op = opN p := Fin.ext hn
    rw [← hp, and_nibbleMask_eq_format op, and_nibbleMask_eq_format p, hh, hn]
    rfl

/-- A row of groups E and F asks for its header and its low byte. -/
theorem selects_byteMask (hp : p &&& 0xF0FF#16 = p) :
    (⟨name, 0xF0FF#16, p⟩ : OpcodeRow).selects op =
      decide (opHeader op = p.extractLsb' 12 4 ∧ opKK op = p.extractLsb' 0 8) := by
  have hform (w : Opcode) : w &&& 0xF0FF#16 = formatXKK (opHeader w) 0 (opKK w) := and_byteMask w
  rw [OpcodeRow.selects, Bool.eq_iff_iff, beq_iff_eq, decide_eq_true_iff]
  refine ⟨fun h => ?_, fun ⟨hh, hkk⟩ => ?_⟩
  · rw [← show _ = p from (hform op).symm.trans h]
    exact ⟨(opHeader_formatXKK _ _ _).symm, (opKK_formatXKK _ _ _).symm⟩
  · rw [← hp, hform op, hform p, hh, hkk]
    rfl

end

/-- The first row a word selects is its instruction's, and an illegal word selects none. -/
theorem opcodeRowOf_of_decodesTo {op : Opcode} {r : Except DecodeReject Instr} (h : DecodesTo op r) :
    (opcodeRowOf op).map OpcodeRow.mnemonic = r.toOption.map Instr.mnemonic := by
  unfold opcodeRowOf
  cases h with
  | illegal hill =>
    suffices hnone : opcodeTable.find? (fun row => row.selects op) = none by simp [hnone, Except.toOption]
    obtain ⟨hh, hn⟩ | ⟨hh, hkk⟩ | ⟨hh, hkk⟩ := hill
    · simp only [List.mem_cons, List.not_mem_nil, or_false] at hn
      simp [opcodeTable, selects_headerMask, selects_nibbleMask, selects_byteMask, hh]
      omega
    · simp_all [opcodeTable, selects_headerMask, selects_nibbleMask, selects_byteMask]
    · simp_all [opcodeTable, selects_headerMask, selects_nibbleMask, selects_byteMask]
  | sysNnn hh hcls hret =>
    rw [ne_eq, Fin.ext_iff] at hcls hret
    simp_all [opcodeTable, selects_headerMask, selects_nibbleMask, Except.toOption, Instr.mnemonic]
  | cls hh hn | ret hh hn | ldVxVy hh hn | orVxVy hh hn | andVxVy hh hn | xorVxVy hh hn | addVxVy hh hn | subVxVy hh hn
  | shrVx hh hn | subnVxVy hh hn | shlVx hh hn =>
    simp [opcodeTable, selects_headerMask, selects_nibbleMask, hh, hn, Except.toOption, Instr.mnemonic]
  | skpVx hh hkk | sknpVx hh hkk | ldVxDt hh hkk | ldVxK hh hkk | ldDtVx hh hkk | ldStVx hh hkk
  | addIVx hh hkk | ldFVx hh hkk | ldBVx hh hkk | ldMemVx hh hkk | ldVxMem hh hkk =>
    simp [opcodeTable, selects_headerMask, selects_nibbleMask, selects_byteMask, hh, hkk, Except.toOption,
      Instr.mnemonic]
  | seVxVy hh | sneVxVy hh | jpNnn hh | callNnn hh | ldINnn hh | jpV0Nnn hh | seVxKk hh | sneVxKk hh | ldVxKk hh
  | addVxKk hh | rndVxKk hh | drwVxVyN hh =>
    simp [opcodeTable, selects_headerMask, selects_nibbleMask, hh, Except.toOption, Instr.mnemonic]

/-! ## Illegal words (R81) -/

theorem not_illegalWord_of_decodesTo {op : Opcode} {i : Instr} (h : DecodesTo op (.ok i)) : ¬ IllegalWord op := by
  cases h <;> simp [IllegalWord, *]

/-- R81: the decoder rejects exactly the illegal words, each with itself. -/
theorem decode_eq_error_iff {op : Opcode} {e : DecodeReject} :
    decode op = .error e ↔ IllegalWord op ∧ e = .decodeError op := by
  have hanswer := decode_decodesTo op
  cases hd : decode op with
  | ok i =>
    rw [hd] at hanswer
    simp [not_illegalWord_of_decodesTo hanswer]
  | error e' =>
    rw [hd] at hanswer
    cases hanswer with
    | illegal hill => simp [hill, eq_comm]

theorem opcodeRowOf_decode (op : Opcode) :
    (opcodeRowOf op).map OpcodeRow.mnemonic = (decode op).toOption.map Instr.mnemonic :=
  opcodeRowOf_of_decodesTo (decode_decodesTo op)

/-! ## The obligations -/

/-- Settles O3: a row is a condition on the header and a selector, and of these conditions the first that the
word's fields meet is that of its arm of the decoder. -/
theorem decoderFollowsOpcodeTable : Obligations.DecoderFollowsOpcodeTable := by
  intro op
  have hrow := opcodeRowOf_decode op
  refine ⟨fun i hd => ?_, ?_⟩
  · rw [hrow, hd]
    rfl
  · rw [← Option.map_eq_none_iff (f := OpcodeRow.mnemonic), hrow]
    cases decode op <;> simp [Except.toOption]

/-- Settles O5: the header selects group 0, and the group its instruction by the trailing nibble. -/
theorem groupZeroIsSelectedOnTrailingNibble : Obligations.GroupZeroIsSelectedOnTrailingNibble := by
  intro x y n
  have hnnn : opNNN (formatXYN 0x0#4 x y n) = BitVec.ofNat 12 (256 * x.val + 16 * y.val + n.val) := by
    apply BitVec.eq_of_toNat_eq
    rw [opNNN_toNat, formatXYN_toNat]
    simp
  rw [decode_group0 (opHeader_formatXYN _ _ _ _), decodeGroup0_eq, opN_formatXYN, hnnn]

/-- Settles O6: each legal word is the canonical word of its instruction, and 0x8128 is in group 8 with the unlisted
selector 8. -/
theorem writtenOutWordsDecode : Obligations.WrittenOutWordsDecode :=
  ⟨decode_encode (i := .ldVxKk 0xA 0x07#8) rfl, decode_encode (i := .addVxVy 1 2) rfl,
    decode_encode (i := .shrVx 4 0) rfl, decode_encode (i := .callNnn 0x300#12) rfl,
    decode_encode (i := .seVxKk 0xF 0x01#8) rfl, decode_encode (i := .ldVxMem 2) rfl,
    decode_encode (i := .ldStVx 0) rfl, decode_encode (i := .skpVx 3) rfl,
    decode_encode (i := .drwVxVyN 1 2 5) rfl, decode_eq_error_iff.2 ⟨.inl (by decide), rfl⟩⟩

end Sys2Proof
end

section
/-! SUPPORT. What an instruction leaves unchanged (10_state.md R21 to R32), said once for every element of the state
but memory. -/

namespace Sys2Proof.Machine

/-! ## Properties of a next state -/

/-- Whatever next state the answer is has the property. -/
def NextSatisfies (P : State → Prop) (r : Result) : Prop := ∀ t, r = .next t → P t

section
variable {P : State → Prop} {s : State}

theorem nextSatisfies_next {u : State} (h : P u) : NextSatisfies P (.next u) := by
  rintro t ⟨⟩
  exact h

theorem nextSatisfies_fault (f : Fault) : NextSatisfies P (.fault f) := nofun

theorem nextSatisfies_guardRange {base : Word} {n : Nat} {r : Result} (h : rangeOk base n = true → NextSatisfies P r) :
    NextSatisfies P (guardRange base n r) := by
  intro t ht
  obtain ⟨hok, hr⟩ := guardRange_eq_next.1 ht
  exact h hok t hr

theorem nextSatisfies_guardKey {k : Byte} {r : Result} (h : NextSatisfies P r) : NextSatisfies P (guardKey k r) :=
  fun t ht => h t (guardKey_eq_next.1 ht).2

theorem nextSatisfies_execRet (h : ∀ w u, s.pop = some (w, u) → P (u.jump w)) : NextSatisfies P (execRet s) := by
  unfold execRet
  split
  case h_1 w u hpop => exact nextSatisfies_next (h w u hpop)
  case h_2 => exact nextSatisfies_fault _

theorem nextSatisfies_execCallNnn {nnn : Addr12} (h : ∀ u, s.push (s.pc + 2#16) = some u → P (u.jump (zextAddr nnn))) :
    NextSatisfies P (execCallNnn nnn s) := by
  unfold execCallNnn
  split
  case h_1 u hpush => exact nextSatisfies_next (h u hpush)
  case h_2 => exact nextSatisfies_fault _

theorem nextSatisfies_execLdVxK {x : Reg} (h : ∀ k, P (s.setReg x (BitVec.ofNat 8 k)).advancePc) :
    NextSatisfies P (execLdVxK x s) := by
  obtain ⟨k, -, hnext⟩ | ⟨-, hwait⟩ := execLdVxK_cases x s
  · rw [hnext]; exact nextSatisfies_next (h k)
  · rw [hwait]; exact nextSatisfies_fault _

end

/-! ## The shared operations, field by field -/

section
variable (s : State) (j : Nat) (bs : List Byte)

@[simp] theorem State.loadRegs_i : (s.loadRegs j bs).i = s.i := by rw [State.loadRegs_frame]
@[simp] theorem State.loadRegs_pc : (s.loadRegs j bs).pc = s.pc := by rw [State.loadRegs_frame]
@[simp] theorem State.loadRegs_dt : (s.loadRegs j bs).dt = s.dt := by rw [State.loadRegs_frame]
@[simp] theorem State.loadRegs_st : (s.loadRegs j bs).st = s.st := by rw [State.loadRegs_frame]
@[simp] theorem State.loadRegs_sp : (s.loadRegs j bs).sp = s.sp := by rw [State.loadRegs_frame]
@[simp] theorem State.loadRegs_stack : (s.loadRegs j bs).stack = s.stack := by rw [State.loadRegs_frame]
@[simp] theorem State.loadRegs_fb : (s.loadRegs j bs).fb = s.fb := by rw [State.loadRegs_frame]
@[simp] theorem State.loadRegs_modified : (s.loadRegs j bs).modified = s.modified := by rw [State.loadRegs_frame]
@[simp] theorem State.loadRegs_keys : (s.loadRegs j bs).keys = s.keys := by rw [State.loadRegs_frame]
@[simp] theorem State.loadRegs_rndDraws : (s.loadRegs j bs).rndDraws = s.rndDraws := by rw [State.loadRegs_frame]

end

/-- A push changes the stack only. -/
theorem State.push_frame {s t : State} {w : Word} (h : s.push w = some t) :
    t = { s with stack := t.stack, sp := t.sp } := by
  obtain ⟨_, rfl⟩ := State.push_eq_some.1 h
  rfl

/-- A pop changes the stack pointer only. -/
theorem State.pop_frame {s t : State} {w : Word} (h : s.pop = some (w, t)) : t = { s with sp := t.sp } := by
  obtain ⟨_, _, rfl⟩ := State.pop_eq_some.1 h
  rfl

/-! ## Updates of registers -/

theorem onlyPcChanges_setPc (s : State) (w : Word) : OnlyPcChanges s (s.setPc w) :=
  ⟨fun _ _ => rfl, rfl, fun _ => rfl, ⟨rfl, rfl⟩, ⟨rfl, rfl⟩, ⟨rfl, rfl⟩, rfl, rfl⟩

theorem sameRegsExcept_setReg (s : State) (x : Reg) (b : Byte) : SameRegsExcept [x] s (s.setReg x b) := by
  intro r hr
  rw [List.mem_singleton] at hr
  rw [State.setReg_reg, if_neg hr]

theorem onlyRegsChange_setReg (s : State) (x : Reg) (b : Byte) :
    OnlyRegsChange [x] s (s.setReg x b).advancePc :=
  ⟨sameRegsExcept_setReg s x b, rfl, fun _ => rfl, ⟨rfl, rfl⟩, ⟨rfl, rfl⟩, ⟨rfl, rfl⟩, rfl, rfl⟩

theorem sameRegsExcept_setRegAndFlag (s : State) (x : Reg) (b f : Byte) :
    SameRegsExcept [x, vf] s (s.setRegAndFlag x b f) := by
  intro r hr
  simp only [List.mem_cons, List.not_mem_nil, or_false, not_or] at hr
  rw [State.setRegAndFlag_reg, if_neg hr.2, if_neg hr.1]

theorem onlyRegsChange_setRegAndFlag (s : State) (x : Reg) (b f : Byte) :
    OnlyRegsChange [x, vf] s (s.setRegAndFlag x b f).advancePc :=
  ⟨sameRegsExcept_setRegAndFlag s x b f, rfl, fun _ => rfl, ⟨rfl, rfl⟩, ⟨rfl, rfl⟩, ⟨rfl, rfl⟩, rfl, rfl⟩

/-- `Fx65` loads `V0` to `Vx` and no other register. -/
theorem sameRegsExcept_loadRegs (s : State) (x : Reg) {bs : List Byte} (hlen : bs.length = x.val + 1) :
    SameRegsExcept (writesOf (.ldVxMem x)) s (s.loadRegs 0 bs) := by
  intro r hr
  have habove : bs.length ≤ r.val := by
    by_contra hle
    exact hr (List.mem_map.2 ⟨r.val, List.mem_range.2 (by omega), Fin.ofNat_val_eq_self r⟩)
  rw [State.loadRegs_reg _ _ _ (by omega)]
  simp [List.getElem?_eq_none habove]

/-! ## Every instruction -/

/-- `t` differs from `s` at most in memory, in `PC`, in the count of draws, and where the instruction is one that
writes the element (R21 to R32). -/
structure ExecFrame (i : Instr) (s t : State) : Prop where
  regs : SameRegsExcept (writesOf i) s t
  index : (∀ nnn, i ≠ .ldINnn nnn) → (∀ x, i ≠ .addIVx x) → (∀ x, i ≠ .ldFVx x) → (∀ x, i ≠ .ldMemVx x) →
    (∀ x, i ≠ .ldVxMem x) → t.i = s.i
  stack : (∀ nnn, i ≠ .callNnn nnn) → i ≠ .ret → SameStack s t
  delay : (∀ x, i ≠ .ldDtVx x) → t.dt = s.dt
  sound : (∀ x, i ≠ .ldStVx x) → t.st = s.st
  display : i ≠ .cls → (∀ x y n, i ≠ .drwVxVyN x y n) → SameDisplay s t
  keys : t.keys = s.keys

theorem execFrame_of_onlyRegsChange {i : Instr} {s t : State} {written : List Reg} (hwrites : writesOf i = written)
    (h : OnlyRegsChange written s t) : ExecFrame i s t := by
  subst hwrites
  obtain ⟨hregs, hindex, -, hstack, ⟨hdelay, hsound⟩, hdisplay, hkeys, -⟩ := h
  exact ⟨hregs, fun _ _ _ _ _ => hindex, fun _ _ => hstack, fun _ => hdelay, fun _ => hsound,
    fun _ _ => hdisplay, hkeys⟩

/-- The frame of every instruction: a call and a return change the stack only, beside `PC`; a store memory only, and
so on. -/
theorem exec_frame (i : Instr) (s : State) : NextSatisfies (ExecFrame i s) (exec i s) := by
  cases i with
  | ret =>
    refine nextSatisfies_execRet fun w u hpop => ?_
    rw [State.pop_frame hpop]
    constructor <;> simp [SameRegsExcept, SameDisplay, State.reg]
  | callNnn nnn =>
    refine nextSatisfies_execCallNnn fun u hpush => ?_
    rw [State.push_frame hpush]
    constructor <;> simp [SameRegsExcept, SameDisplay, State.reg]
  | cls | ldINnn | addIVx | ldFVx | ldDtVx | ldStVx =>
    refine nextSatisfies_next ?_
    constructor <;> simp [SameRegsExcept, SameStack, SameDisplay]
  | rndVxKk x kk =>
    refine nextSatisfies_next ⟨sameRegsExcept_setReg s x _, ?_, ?_, ?_, ?_, ?_, ?_⟩ <;> simp [SameStack, SameDisplay]
  | drwVxVyN x y n =>
    refine nextSatisfies_guardRange fun _ => nextSatisfies_next
      ⟨sameRegsExcept_setReg s vf _, ?_, ?_, ?_, ?_, ?_, ?_⟩ <;> simp [SameStack]
  | ldBVx | ldMemVx =>
    refine nextSatisfies_guardRange fun _ => nextSatisfies_next ?_
    constructor <;> simp [SameRegsExcept, SameStack, SameDisplay]
  | ldVxMem x =>
    refine nextSatisfies_guardRange fun _ => nextSatisfies_next
      ⟨sameRegsExcept_loadRegs s x (Memory.readBlock_length _ _ _), ?_, ?_, ?_, ?_, ?_, ?_⟩ <;>
        simp [SameStack, SameDisplay]
  | ldVxK x => exact nextSatisfies_execLdVxK fun k => execFrame_of_onlyRegsChange rfl (onlyRegsChange_setReg s x _)
  | skpVx | sknpVx =>
    exact nextSatisfies_guardKey (nextSatisfies_next
      (execFrame_of_onlyRegsChange rfl (onlyPcChanges_setPc s _)))
  | sysNnn | jpNnn | jpV0Nnn | seVxKk | sneVxKk | seVxVy | sneVxVy =>
    exact nextSatisfies_next (execFrame_of_onlyRegsChange rfl (onlyPcChanges_setPc s _))
  | ldVxKk x | addVxKk x | ldVxVy x | orVxVy x | andVxVy x | xorVxVy x | ldVxDt x =>
    exact nextSatisfies_next (execFrame_of_onlyRegsChange rfl (onlyRegsChange_setReg s x _))
  | addVxVy x | subVxVy x | subnVxVy x | shrVx x | shlVx x =>
    exact nextSatisfies_next (execFrame_of_onlyRegsChange rfl (onlyRegsChange_setRegAndFlag s x _ _))

end Sys2Proof.Machine
end

section
/-! SUPPORT. Where an instruction leaves `PC` (40_step_cycle.md R94), and the stack pointer under the two
instructions that move it (10_state.md R27). -/

namespace Sys2Proof.Machine

/-! ## The two stack instructions -/

/-- R121, R183: a return goes to the popped address, or finds the stack empty and faults. -/
theorem exec_ret_cases (s : State) :
    (∃ w t, s.pop = some (w, t) ∧ exec .ret s = .next (t.jump w)) ∨
    (s.sp.val = 0 ∧ exec .ret s = .fault .stackUnderflow) := by
  have hexec : exec .ret s = execRet s := rfl
  rw [hexec, execRet]
  cases hpop : s.pop with
  | some r => exact .inl ⟨r.1, r.2, rfl, rfl⟩
  | none => exact .inr ⟨State.pop_eq_none.1 hpop, rfl⟩

theorem State.pop_sp {s t : State} {w : Word} (h : s.pop = some (w, t)) : t.sp.val + 1 = s.sp.val := by
  obtain ⟨hpos, -, rfl⟩ := State.pop_eq_some.1 h
  exact Nat.sub_add_cancel hpos

/-- A pop answers the entry below `SP`. -/
theorem State.pop_entry {s t : State} {w : Word} (h : s.pop = some (w, t)) {j : Fin 16}
    (hj : s.sp.val = j.val + 1) : w = s.stackEntry j := by
  obtain ⟨-, rfl, -⟩ := State.pop_eq_some.1 h
  simp [State.stackEntry, hj]

/-- A push writes the entry at `SP` and no other. -/
theorem State.push_entry {s t : State} {w : Word} (h : s.push w = some t) (j : Fin 16) :
    t.stackEntry j = if j.val = s.sp.val then w else s.stackEntry j := by
  obtain ⟨hlt, rfl⟩ := State.push_eq_some.1 h
  simp [State.stackEntry, Vector.getElem_set, eq_comm]

/-- A return that completes uses one stack entry less. -/
theorem exec_ret_sp {s t : State} (h : exec .ret s = .next t) : t.sp.val + 1 = s.sp.val := by
  refine nextSatisfies_execRet (P := fun t => t.sp.val + 1 = s.sp.val) (fun w u hpop => ?_) t h
  rw [State.jump_sp, State.pop_sp hpop]

/-! ## `PC` -/

theorem State.skipIf_pc_toNat (s : State) (taken : Bool) :
    (s.skipIf taken).pc.toNat = (s.pc.toNat + if taken then 4 else 2) % 2 ^ 16 := by
  cases taken <;> exact BitVec.toNat_add _ _

theorem State.advancePc_pc_toNat (s : State) : s.advancePc.pc.toNat = (s.pc.toNat + 2) % 2 ^ 16 :=
  BitVec.toNat_add _ _

theorem zextAddr_toNat (nnn : Addr12) : (zextAddr nnn).toNat = nnn.toNat := by
  simp [zextAddr]
  omega

theorem zextByte_toNat (b : Byte) : (zextByte b).toNat = b.toNat := by
  simp [zextByte]
  omega

/-- Every instruction but the two jumps, the call and the return advances `PC`, further when it is a skip whose
condition holds. -/
theorem exec_pc {i : Instr} (hjp : ∀ nnn, i ≠ .jpNnn nnn) (hcall : ∀ nnn, i ≠ .callNnn nnn)
    (hjpV0 : ∀ nnn, i ≠ .jpV0Nnn nnn) (hret : i ≠ .ret) (s : State) :
    NextSatisfies (fun t => t.pc.toNat = (s.pc.toNat + if skipTaken i s then 4 else 2) % 2 ^ 16) (exec i s) := by
  cases i with
  | jpNnn nnn => exact absurd rfl (hjp nnn)
  | callNnn nnn => exact absurd rfl (hcall nnn)
  | jpV0Nnn nnn => exact absurd rfl (hjpV0 nnn)
  | ret => exact absurd rfl hret
  | seVxKk | sneVxKk | seVxVy | sneVxVy => exact nextSatisfies_next (s.skipIf_pc_toNat _)
  | skpVx | sknpVx => exact nextSatisfies_guardKey (nextSatisfies_next (s.skipIf_pc_toNat _))
  | ldVxK => exact nextSatisfies_execLdVxK fun _ => State.advancePc_pc_toNat _
  | drwVxVyN | ldBVx | ldMemVx => exact nextSatisfies_guardRange fun _ => nextSatisfies_next (State.advancePc_pc_toNat _)
  | ldVxMem =>
    refine nextSatisfies_guardRange fun _ => nextSatisfies_next ((State.advancePc_pc_toNat _).trans ?_)
    simp [skipTaken]
  | _ => exact nextSatisfies_next (State.advancePc_pc_toNat _)

/-! ## The obligations -/

/-- Settles O26: the display part of the frame of every instruction. -/
theorem onlyClsAndDrwWriteDisplay : Obligations.OnlyClsAndDrwWriteDisplay :=
  fun i s t h => (exec_frame i s t h).display

/-- Settles O28: the stack part of the frame of every instruction, and the push and the pop of the two others. -/
theorem onlyCallAndRetTouchStack : Obligations.OnlyCallAndRetTouchStack := by
  refine fun i s t h => ⟨(exec_frame i s t h).stack, fun nnn hi => ?call, fun hi => ?ret⟩
  case call =>
    subst hi
    exact exec_callNnn_sp h
  case ret =>
    subst hi
    exact exec_ret_sp h

/-- Settles O29: the register part of the frame of every instruction. -/
theorem registersChangeOnlyAsNamed : Obligations.RegistersChangeOnlyAsNamed :=
  fun i s t h => (exec_frame i s t h).regs

/-- Settles O30: the index part of the frame of every instruction. -/
theorem indexChangesOnlyAsNamed : Obligations.IndexChangesOnlyAsNamed :=
  fun i s t h => (exec_frame i s t h).index

/-- Settles O31: a jump, a call and a return set `PC`, and the rest advance it. -/
theorem pcIsTargetOrAdvances : Obligations.PcIsTargetOrAdvances := by
  intro i s t h
  cases i with
  | jpNnn nnn =>
    cases h
    exact zextAddr_toNat nnn
  | callNnn nnn =>
    obtain ⟨u, hpush, hnext⟩ | ⟨-, hfault⟩ := exec_callNnn_cases nnn s
    · obtain rfl : u.jump (zextAddr nnn) = t := by simpa [hnext] using h
      obtain ⟨hlt, -⟩ := State.push_eq_some.1 hpush
      exact ⟨zextAddr_toNat nnn, ⟨s.sp.val, hlt⟩, rfl, (State.push_entry hpush _).trans (if_pos rfl)⟩
    · simp [hfault] at h
  | jpV0Nnn nnn =>
    cases h
    rw [State.jump_pc, BitVec.toNat_add, zextAddr_toNat, zextByte_toNat]
  | ret =>
    obtain ⟨w, u, hpop, hnext⟩ | ⟨-, hfault⟩ := exec_ret_cases s
    · obtain rfl : u.jump w = t := by simpa [hnext] using h
      have hsp := State.pop_sp hpop
      exact ⟨⟨u.sp.val, by omega⟩, hsp, State.pop_entry hpop hsp.symm⟩
    · simp [hfault] at h
  | _ => exact exec_pc (by simp) (by simp) (by simp) (by simp) s t h

end Sys2Proof.Machine
end

section
/-! SUPPORT. Which faults an instruction can end in (60_exceptions.md R187), and that none is refused. -/

namespace Sys2Proof.Machine

theorem rangeOk_eq_false {base : Word} {n : Nat} : rangeOk base n = false ↔ 0 < n ∧ 0xFFF < base.toNat + n - 1 := by
  rw [← Bool.not_eq_true, rangeOk_iff]
  omega

theorem exec_callNnn_eq_fault {nnn : Addr12} {s : State} {f : Fault} :
    exec (.callNnn nnn) s = .fault f ↔ s.sp = 16 ∧ f = .stackOverflow := by
  rw [Fin.ext_iff]
  obtain ⟨t, hpush, hnext⟩ | ⟨hfull, hfault⟩ := exec_callNnn_cases nnn s
  · obtain ⟨hlt, -⟩ := State.push_eq_some.1 hpush
    simp [hnext, hlt.ne]
  · simp [hfault, hfull, eq_comm]

theorem exec_ret_eq_fault {s : State} {f : Fault} :
    exec .ret s = .fault f ↔ s.sp = 0 ∧ f = .stackUnderflow := by
  rw [Fin.ext_iff]
  obtain ⟨w, t, hpop, hnext⟩ | ⟨hempty, hfault⟩ := exec_ret_cases s
  · obtain ⟨hpos, -⟩ := State.pop_eq_some.1 hpop
    simp [hnext, hpos.ne']
  · simp [hfault, hempty, eq_comm]

theorem execLdVxK_eq_fault {x : Reg} {s : State} {f : Fault} :
    execLdVxK x s = .fault f ↔ (∀ k : Key, s.key k.val = false) ∧ f = .keyWait := by
  have hnone : s.lowestKey = none ↔ ∀ k : Key, s.key k.val = false := by
    rw [State.lowestKey_eq_none, Fin.forall_iff]
  rw [← hnone]
  obtain ⟨k, hkey, hnext⟩ | ⟨hkey, hwait⟩ := execLdVxK_cases x s
  · simp [hnext, hkey]
  · simp [hwait, hkey, eq_comm]

/-- Settles O32: the guards of the five accesses and the two key skips, the full and the empty stack, and the wait;
every other meaning is a next state. -/
theorem execFaultsExactlyOnTheseConditions : Obligations.ExecFaultsExactlyOnTheseConditions := by
  intro i s f
  cases i with
  | callNnn nnn => simp [exec_callNnn_eq_fault]
  | ret => simp [exec_ret_eq_fault]
  | drwVxVyN x y n =>
    simp [exec, execDrwVxVyN, guardRange_eq_fault, rangeOk_eq_false]
  | ldBVx x => simp [exec, execLdBVx, guardRange_eq_fault, rangeOk_eq_false]
  | ldMemVx x => simp [exec, execLdMemVx, guardRange_eq_fault, rangeOk_eq_false]
  | ldVxMem x => simp [exec, execLdVxMem, guardRange_eq_fault, rangeOk_eq_false]
  | skpVx x => simp [exec, execSkpVx, guardKey_eq_fault]
  | sknpVx x => simp [exec, execSknpVx, guardKey_eq_fault]
  | ldVxK x => simp [exec, execLdVxK_eq_fault]
  | _ => exact iff_of_false nofun (by simp)

/-! ## No refusal -/

theorem exec_ne_refused (i : Instr) (s : State) (r : Refusal) : exec i s ≠ .refused r := by
  cases i with
  | callNnn nnn =>
    obtain ⟨t, -, hnext⟩ | ⟨-, hfault⟩ := exec_callNnn_cases nnn s
    · simp [hnext]
    · simp [hfault]
  | ret =>
    obtain ⟨w, t, -, hnext⟩ | ⟨-, hfault⟩ := exec_ret_cases s
    · simp [hnext]
    · simp [hfault]
  | ldVxK x =>
    have hexec : exec (.ldVxK x) s = execLdVxK x s := rfl
    obtain ⟨k, -, hnext⟩ | ⟨-, hwait⟩ := execLdVxK_cases x s
    · simp [hexec, hnext]
    · simp [hexec, hwait]
  | drwVxVyN | ldBVx | ldMemVx | ldVxMem => exact guardRange_ne_refused
  | skpVx | sknpVx => exact guardKey_ne_refused
  | _ => nofun

theorem step_eq_refused {s : State} {r : Refusal} : step s = .refused r ↔
    ∃ i, fetchDecode s = .ok i ∧ exec i s = .refused r := by
  unfold step
  cases fetchDecode s with
  | error f => simp
  | ok i => cases hexec : exec i s <;> simp [hexec]

/-- Settles O21: fetch and decode answer an instruction or a fault, and every instruction has a meaning. -/
theorem noStepIsRefused : Obligations.NoStepIsRefused := by
  intro s r hstep
  obtain ⟨i, -, hexec⟩ := step_eq_refused.1 hstep
  exact exec_ne_refused i s r hexec

/-! ## What a fault does not depend on -/

/-- Settles O13: neither the fetch nor the condition of any fault but the wait reads the keys or the draws. -/
theorem faultRepeatsWhateverKeysAndDraws : Obligations.FaultRepeatsWhateverKeysAndDraws := by
  intro s f ks d hf hstep
  obtain hfetch | ⟨i, hi, hexec⟩ := step_eq_fault.1 hstep
  · exact step_eq_fault.2 (.inl hfetch)
  · refine step_eq_fault.2 (.inr ⟨i, hi, ?_⟩)
    rw [execFaultsExactlyOnTheseConditions] at hexec ⊢
    simpa [hf, State.reg] using hexec

end Sys2Proof.Machine
end

section
/-! SUPPORT. Two states that differ in what no instruction observes (10_state.md R26, R27, R33): they step alike. -/

namespace Sys2Proof.Machine

/-! ## Agreement of outcomes -/

section
variable {R : State → State → Prop} {r r' : Result}

theorem outcomesAgree_next {t t' : State} (h : R t t') : OutcomesAgree R (.next t) (.next t') := h

theorem outcomesAgree_fault (f : Fault) : OutcomesAgree R (.fault f) (.fault f) := rfl

theorem outcomesAgree_guardRange {base : Word} {n : Nat} (h : OutcomesAgree R r r') :
    OutcomesAgree R (guardRange base n r) (guardRange base n r') := by
  unfold guardRange
  split
  · exact h
  · exact outcomesAgree_fault _

theorem outcomesAgree_guardKey {k : Byte} (h : OutcomesAgree R r r') :
    OutcomesAgree R (guardKey k r) (guardKey k r') := by
  unfold guardKey
  split
  · exact h
  · exact outcomesAgree_fault _

section
variable {s s' : State}

/-- Calls agree when the pushes that succeed do. -/
theorem outcomesAgree_execCallNnn {nnn : Addr12} (hpc : s'.pc = s.pc) (hsp : s'.sp = s.sp)
    (h : ∀ u u', s.push (s.pc + 2#16) = some u → s'.push (s.pc + 2#16) = some u' →
      R (u.jump (zextAddr nnn)) (u'.jump (zextAddr nnn))) :
    OutcomesAgree R (execCallNnn nnn s) (execCallNnn nnn s') := by
  have hfull : s'.push (s.pc + 2#16) = none ↔ s.push (s.pc + 2#16) = none := by
    rw [State.push_eq_none, State.push_eq_none, hsp]
  unfold execCallNnn
  rw [hpc]
  cases hpush : s.push (s.pc + 2#16) with
  | none =>
    rw [hfull.2 hpush]
    exact outcomesAgree_fault _
  | some u =>
    obtain ⟨u', hpush'⟩ := Option.ne_none_iff_exists'.1 (mt hfull.1 (by simp [hpush]))
    rw [hpush']
    exact h u u' hpush hpush'

/-- Returns agree when the pops that succeed do. -/
theorem outcomesAgree_execRet (hsp : s'.sp = s.sp)
    (h : ∀ w w' u u', s.pop = some (w, u) → s'.pop = some (w', u') → R (u.jump w) (u'.jump w')) :
    OutcomesAgree R (execRet s) (execRet s') := by
  have hempty : s'.pop = none ↔ s.pop = none := by
    rw [State.pop_eq_none, State.pop_eq_none, hsp]
  unfold execRet
  cases hpop : s.pop with
  | none =>
    rw [hempty.2 hpop]
    exact outcomesAgree_fault _
  | some r =>
    obtain ⟨r', hpop'⟩ := Option.ne_none_iff_exists'.1 (mt hempty.1 (by simp [hpop]))
    rw [hpop']
    exact h r.1 r'.1 r.2 r'.2 hpop hpop'

theorem outcomesAgree_execLdVxK {x : Reg} (hkeys : s'.keys = s.keys)
    (h : ∀ b, R (s.setReg x b).advancePc (s'.setReg x b).advancePc) :
    OutcomesAgree R (execLdVxK x s) (execLdVxK x s') := by
  have hlowest : s'.lowestKey = s.lowestKey := by simp only [State.lowestKey, State.key_eq, hkeys]
  unfold execLdVxK
  rw [hlowest]
  cases s.lowestKey with
  | some k => exact h _
  | none => exact outcomesAgree_fault _

end

/-- Steps that decode alike agree when executions do, and the phases after it keep the relation. -/
theorem outcomesAgree_step {s s' : State} (hdecode : fetchDecode s' = fetchDecode s)
    (hexec : ∀ i, OutcomesAgree R (exec i s) (exec i s')) (hcomplete : ∀ u u', R u u' → R u.complete u'.complete) :
    OutcomesAgree R (step s) (step s') := by
  unfold step
  rw [hdecode]
  cases fetchDecode s with
  | error f => exact outcomesAgree_fault f
  | ok i =>
    have hi := hexec i
    revert hi
    dsimp only
    cases exec i s <;> cases exec i s' <;> intro hi
    case next.next u u' => exact hcomplete u u' hi
    case fault.fault => exact hi
    case refused.refused => exact hi
    all_goals exact hi.elim

end

/-! ## The sound timer -/

theorem State.loadRegs_setSound (s : State) (b : Byte) (j : Nat) (bs : List Byte) :
    (s.setSound b).loadRegs j bs = (s.loadRegs j bs).setSound b := by
  induction bs generalizing s j with
  | nil => rfl
  | cons c bs ih => exact ih (s.setReg _ c) (j + 1)

/-- No instruction reads `ST`, and `Fx18` alone writes it. -/
theorem exec_setSound (i : Instr) (s : State) (b : Byte) :
    OutcomesAgree SameButSound (exec i s) (exec i (s.setSound b)) := by
  cases i with
  | callNnn nnn =>
    refine outcomesAgree_execCallNnn rfl rfl fun u u' hpush hpush' => ?_
    obtain ⟨_, rfl⟩ := State.push_eq_some.1 hpush
    obtain ⟨_, rfl⟩ := State.push_eq_some.1 hpush'
    rfl
  | ret =>
    refine outcomesAgree_execRet rfl fun w w' u u' hpop hpop' => ?_
    obtain ⟨_, rfl, rfl⟩ := State.pop_eq_some.1 hpop
    obtain ⟨_, rfl, rfl⟩ := State.pop_eq_some.1 hpop'
    rfl
  | ldVxK => exact outcomesAgree_execLdVxK rfl fun _ => rfl
  | drwVxVyN | ldBVx | ldMemVx => exact outcomesAgree_guardRange (outcomesAgree_next rfl)
  | ldVxMem x =>
    refine outcomesAgree_guardRange (outcomesAgree_next ?_)
    rw [State.loadRegs_setSound]
    rfl
  | skpVx | sknpVx => exact outcomesAgree_guardKey (outcomesAgree_next rfl)
  | _ => exact outcomesAgree_next rfl

/-- Settles O33: fetching, executing and ticking keep two states equal but for `ST`. -/
theorem soundTimerIsUnobservable : Obligations.SoundTimerIsUnobservable := by
  intro s s' h
  rw [h]
  refine outcomesAgree_step rfl (fun i => exec_setSound i s _) fun u u' hu => ?_
  rw [hu]
  rfl

/-! ## The dead stack slots -/

/-- `s` with other stack entries. -/
def State.withStack (s : State) (k : Vector Word 16) : State := { s with stack := k }

@[simp] theorem State.withStack_sp (s : State) (k : Vector Word 16) : (s.withStack k).sp = s.sp := rfl
@[simp] theorem State.withStack_stack (s : State) (k : Vector Word 16) : (s.withStack k).stack = k := rfl

theorem State.loadRegs_withStack (s : State) (k : Vector Word 16) (j : Nat) (bs : List Byte) :
    (s.withStack k).loadRegs j bs = (s.loadRegs j bs).withStack k := by
  induction bs generalizing s j with
  | nil => rfl
  | cons c bs ih => exact ih (s.setReg _ c) (j + 1)

/-- A push writes the one slot that becomes live, and a pop reads a live one; no other instruction reads the
stack. -/
theorem exec_withStack (i : Instr) (s : State) (k : Vector Word 16)
    (hlive : ∀ j : Fin 16, j.val < s.sp.val → (s.withStack k).stackEntry j = s.stackEntry j) :
    OutcomesAgree SameButDeadSlots (exec i s) (exec i (s.withStack k)) := by
  cases i with
  | callNnn nnn =>
    refine outcomesAgree_execCallNnn rfl rfl fun u u' hpush hpush' => ⟨?others, fun j hj => ?slots⟩
    case others =>
      obtain ⟨_, rfl⟩ := State.push_eq_some.1 hpush
      obtain ⟨_, rfl⟩ := State.push_eq_some.1 hpush'
      rfl
    case slots =>
      have hsp := State.push_sp hpush
      rw [State.jump_sp] at hj
      show u'.stackEntry j = u.stackEntry j
      rw [State.push_entry hpush, State.push_entry hpush', State.withStack_sp]
      split_ifs with hnew
      · rfl
      · exact hlive j (by omega)
  | ret =>
    refine outcomesAgree_execRet rfl fun w w' u u' hpop hpop' => ?_
    have hsp := State.pop_sp hpop
    have hw : w' = w := by
      obtain ⟨j, hj⟩ : ∃ j : Fin 16, s.sp.val = j.val + 1 := ⟨⟨u.sp.val, by omega⟩, hsp.symm⟩
      rw [State.pop_entry hpop hj, State.pop_entry hpop' hj]
      exact hlive j (by omega)
    obtain ⟨_, -, rfl⟩ := State.pop_eq_some.1 hpop
    obtain ⟨_, -, rfl⟩ := State.pop_eq_some.1 hpop'
    subst hw
    exact ⟨rfl, fun j hj => hlive j (Nat.lt_of_lt_of_le hj (Nat.sub_le _ _))⟩
  | ldVxK => exact outcomesAgree_execLdVxK rfl fun _ => ⟨rfl, hlive⟩
  | drwVxVyN | ldBVx | ldMemVx => exact outcomesAgree_guardRange (outcomesAgree_next ⟨rfl, hlive⟩)
  | ldVxMem x =>
    refine outcomesAgree_guardRange (outcomesAgree_next ?_)
    rw [State.loadRegs_withStack]
    exact ⟨rfl, fun j hj => by simpa [State.stackEntry] using hlive j (by simpa using hj)⟩
  | skpVx | sknpVx => exact outcomesAgree_guardKey (outcomesAgree_next ⟨rfl, hlive⟩)
  | _ => exact outcomesAgree_next ⟨rfl, hlive⟩

/-- Settles O34: fetching, executing and ticking keep two states equal but for slots at or above `SP`. -/
theorem deadStackSlotsAreUnobservable : Obligations.DeadStackSlotsAreUnobservable := by
  intro s s' h
  obtain ⟨hs', hlive⟩ := h
  generalize s'.stack = k at hs'
  subst hs'
  refine outcomesAgree_step rfl (fun i => exec_withStack i s k hlive) fun u u' hu => ?_
  obtain ⟨hu', hlive⟩ := hu
  generalize u'.stack = k at hu'
  subst hu'
  exact ⟨rfl, hlive⟩

end Sys2Proof.Machine
end

section
/-! SUPPORT. The invariant: memory in canonical form and `MOD` 0 between two steps (10_state.md R28, R30), and the
key latch (R32), under the steps and the host's actions. -/

namespace Sys2Proof.Machine

/-! ## The two stores -/

/-- A block whose range passes the guard keeps the canonical form. -/
theorem wf_writeBlock_of_rangeOk {m : Memory} (hm : m.wf) {base : Word} {bs : List Byte}
    (h : rangeOk base bs.length = true) : (m.writeBlock base.toNat bs).wf := by
  obtain hnone | hfits := rangeOk_iff.1 h
  · rw [List.eq_nil_of_length_eq_zero hnone]
    exact hm
  · exact Memory.wf_writeBlock hm hfits

/-- Every instruction keeps the canonical form: the stores write inside `MEM`, and the others write no memory. -/
theorem exec_wf {s : State} (hm : s.mem.wf) (i : Instr) : NextSatisfies (fun t => t.mem.wf) (exec i s) := by
  by_cases hbcd : ∃ x, i = .ldBVx x
  · obtain ⟨x, rfl⟩ := hbcd
    exact nextSatisfies_guardRange fun hok => nextSatisfies_next (wf_writeBlock_of_rangeOk hm hok)
  by_cases hstore : ∃ x, i = .ldMemVx x
  · obtain ⟨x, rfl⟩ := hstore
    exact nextSatisfies_guardRange fun hok =>
      nextSatisfies_next (wf_writeBlock_of_rangeOk hm (by rwa [State.regBlock_length]))
  intro t ht
  rw [exec_keepsMem s (not_exists.1 hbcd) (not_exists.1 hstore) t ht]
  exact hm

/-! ## The obligations -/

/-- Settles O22: execution keeps the canonical form, and the end of the step clears `MOD`. -/
theorem stepKeepsInvariant : Obligations.StepKeepsInvariant := by
  intro s t hinv hstep
  obtain ⟨i, u, -, hexec, rfl⟩ := step_eq_next.1 hstep
  exact ⟨exec_wf hinv.1 i u hexec, rfl⟩

/-- Settles O23: memory lists nothing after reset, and `MOD` is 0. -/
theorem resetMeetsInvariant : Obligations.ResetMeetsInvariant :=
  ⟨Memory.wf_nil, rfl⟩

/-- The state a step reports is the next one, or the one before when none follows. -/
theorem stepReport_state (s : State) : step s = .next (stepReport s).state ∨ (stepReport s).state = s := by
  obtain ⟨i, u, -, -, hstep, hreport⟩ | ⟨f, -, hreport⟩ | ⟨r, -, hreport⟩ := stepReport_cases s
  · exact .inl (by rw [hreport, hstep])
  · exact .inr (by rw [hreport])
  · exact .inr (by rw [hreport])

/-- A load that is accepted does so before the first step, and acts as `State.load`. -/
theorem Session.perform_load_eq_ok {h h' : Session} {bytes : List Byte} (hp : h.perform (.load bytes) = .ok h') :
    ∃ s, h.core.load bytes = some s ∧ h' = { h with core := s } := by
  simp only [Session.perform] at hp
  split at hp
  · simp at hp
  · split at hp
    · rename_i s hload
      cases hp
      exact ⟨s, hload, rfl⟩
    · simp at hp

/-- Settles O24: a step by its report, a load as a block of bytes inside `MEM`, and the other actions keep memory and
leave `MOD` as it was or 0. -/
theorem hostActionsKeepInvariant : Obligations.HostActionsKeepInvariant := by
  intro h h' a hinv hp
  cases a with
  | step =>
    cases hp
    obtain hstep | hsame := stepReport_state h.core
    · exact stepKeepsInvariant _ _ hinv hstep
    · exact hsame.symm ▸ hinv
  | load bytes =>
    obtain ⟨s, hload, rfl⟩ := Session.perform_load_eq_ok hp
    obtain ⟨hlen, rfl⟩ := State.load_eq_some.1 hload
    exact ⟨Memory.wf_writeBlock hinv.1 (Nat.add_le_add_left hlen Config.progBase), hinv.2⟩
  | reset =>
    cases hp
    exact ⟨hinv.1, rfl⟩
  | keyDown | keyUp | snapshot =>
    cases hp
    exact hinv

theorem step_keys {s t : State} (h : step s = .next t) : t.keys = s.keys := by
  obtain ⟨i, u, -, hexec, rfl⟩ := step_eq_next.1 h
  exact (exec_frame i s u hexec).keys

/-- Settles O27: the latch is in the frame of every instruction. -/
theorem onlyKeyEventsAndResetWriteKeys : Obligations.OnlyKeyEventsAndResetWriteKeys := by
  refine ⟨fun s t => step_keys, fun h h' a hp hreset hdown hup => ?_⟩
  cases a with
  | reset => exact absurd rfl hreset
  | keyDown k => exact absurd rfl (hdown k)
  | keyUp k => exact absurd rfl (hup k)
  | step =>
    cases hp
    obtain hstep | hsame := stepReport_state h.core
    · exact step_keys hstep
    · exact congrArg State.keys hsame
  | load bytes =>
    obtain ⟨s, hload, rfl⟩ := Session.perform_load_eq_ok hp
    obtain ⟨-, rfl⟩ := State.load_eq_some.1 hload
    rfl
  | snapshot =>
    cases hp
    rfl

end Sys2Proof.Machine
end

section
/-! SUPPORT. The phases around execution: fetch, tick, frame and report (40_step_cycle.md R91, R95 to R97), and the
faults of fetch and decode (60_exceptions.md R181). -/

namespace Sys2Proof.Machine

/-! ## The report -/

/-- Settles O12: the report carries the step's outcome, and the state before when no next one follows. -/
theorem faultingStepLeavesStateAndEmitsNoFrame : Obligations.FaultingStepLeavesStateAndEmitsNoFrame := by
  intro s
  obtain ⟨i, u, -, -, hstep, hreport⟩ | ⟨f, hstep, hreport⟩ | ⟨r, hstep, hreport⟩ := stepReport_cases s
  · simp [hstep, hreport]
  · refine ⟨by simp [hstep, hreport], by simp [hstep, hreport, ofFault_eq_stalled], fun g => ⟨fun hg => ?_, ?_⟩⟩
    · simp only [hstep, hreport, ofFault_eq_fault, Host.Outcome.fault.injEq]
      exact and_iff_left_of_imp fun e => e ▸ hg
    · simp [hreport]
  · exact absurd hstep (noStepIsRefused s r)

/-! ## Fetch -/

theorem fetch_eq_error {s : State} (h : 0xFFE < s.pc.toNat) :
    fetch s = .error (.boundsViolation (max s.pc.toNat 0x1000)) := by
  obtain ⟨hin, -⟩ | ⟨-, herror⟩ := fetch_cases s
  · omega
  · exact herror

theorem fetchDecode_of_fetch_error {s : State} {f : Fault} (h : fetch s = .error f) : fetchDecode s = .error f := by
  simp only [fetchDecode, h]

theorem step_of_fetch_error {s : State} {f : Fault} (h : fetch s = .error f) : step s = .fault f :=
  step_eq_fault.2 (.inl (fetchDecode_of_fetch_error h))

theorem fetchedWord_of_fetch {s : State} {op : Opcode} (h : fetch s = .ok op) : fetchedWord s = some op := by
  simp only [fetchedWord, h]

theorem stepReport_opcodeFetched (s : State) : (stepReport s).opcodeFetched = fetchedWord s := by
  obtain ⟨i, u, -, -, -, hreport⟩ | ⟨f, -, hreport⟩ | ⟨r, -, hreport⟩ := stepReport_cases s <;> rw [hreport]

/-- A step that faults reports the state before it. -/
theorem stepReport_state_of_fault {s : State} {f : Fault} (h : step s = .fault f) : (stepReport s).state = s := by
  obtain hstep | hsame := stepReport_state s
  · simp [h] at hstep
  · exact hsame

/-- Settles O15: inside `MEM` the fetch joins the two bytes at `PC`, and above 0xFFE it is the step's fault. -/
theorem fetchReadsTwoBytesBigEndianOrFaults : Obligations.FetchReadsTwoBytesBigEndianOrFaults := by
  refine fun s => ⟨fun hpc => ?inside, fun hpc => ?outside, fun s' hpc hhi hlo => ?bytes⟩
  case inside =>
    have hfetch := fetch_eq_ok hpc
    exact ⟨_, hfetch, (stepReport_opcodeFetched s).trans (fetchedWord_of_fetch hfetch), joinBytes_toNat _ _⟩
  case outside =>
    have hfirst : max s.pc.toNat 0x1000 = if 0xFFF < s.pc.toNat then s.pc.toNat else 0x1000 := by
      split_ifs <;> omega
    have hstep := step_of_fetch_error (fetch_eq_error hpc)
    rw [← hfirst]
    exact ⟨hstep, stepReport_state_of_fault hstep⟩
  case bytes => simp only [fetch, hpc, hhi, hlo]

/-! ## Decode -/

theorem fetchDecode_eq_error_of_fetch {s : State} {op : Opcode} {f : Fault} (hfetch : fetch s = .ok op) :
    fetchDecode s = .error f ↔ IllegalWord op ∧ f = .decodeError op := by
  simp only [fetchDecode, hfetch]
  cases hd : decode op with
  | ok i => simp [not_illegalWord_of_decodesTo (hd ▸ decode_decodesTo op)]
  | error e => simp [(decode_eq_error_iff.1 hd).1, eq_comm]

/-- No instruction raises `DecodeError`. -/
theorem exec_ne_decodeError (i : Instr) (s : State) (op : Opcode) : exec i s ≠ .fault (.decodeError op) := by
  rw [ne_eq, execFaultsExactlyOnTheseConditions]
  simp

/-- Settles O16: the fault comes from decoding the fetched word, since no instruction raises it. -/
theorem decodeErrorExactlyOnIllegalWords : Obligations.DecodeErrorExactlyOnIllegalWords := by
  intro op
  refine ⟨by simp [decode_eq_error_iff], fun hh => by simp [IllegalWord, hh],
    fun s hfetch => ⟨fun hill => ?raised, fun op' hstep => ?only⟩⟩
  case raised =>
    have hstep := step_eq_fault.2 (.inl ((fetchDecode_eq_error_of_fetch hfetch).2 ⟨hill, rfl⟩))
    exact ⟨hstep, stepReport_state_of_fault hstep⟩
  case only =>
    obtain hdecode | ⟨i, -, hexec⟩ := step_eq_fault.1 hstep
    · simpa using (fetchDecode_eq_error_of_fetch hfetch).1 hdecode
    · exact absurd hexec (exec_ne_decodeError i s op')

/-! ## Timers -/

theorem tickByte_toNat (t : Byte) : (tickByte t).toNat = t.toNat - 1 := by
  unfold tickByte
  split_ifs with h
  · simp [h]
  · rw [← BitVec.toNat_inj] at h
    bv_omega

/-- Settles O17: a step that completes ticks what execution left in the timers. -/
theorem completedStepTicksBothTimersOnce : Obligations.CompletedStepTicksBothTimersOnce := by
  refine fun s i hi => ⟨fun f hstep => ?faults, fun t hstep => ?completes⟩
  case faults => simp [stepReport_state_of_fault hstep]
  case completes =>
    obtain ⟨i', u, hi', hexec, rfl⟩ := step_eq_next.1 hstep
    obtain rfl : i = i' := by simpa [hi] using hi'
    have hframe := exec_frame i s u hexec
    rw [State.complete_dt, State.complete_st, tickByte_toNat, tickByte_toNat]
    refine ⟨fun h => by rw [hframe.delay h], fun h => by rw [hframe.sound h], fun x h => ?_, fun x h => ?_⟩
    · subst h
      cases hexec
      rfl
    · subst h
      cases hexec
      rfl

/-! ## Frames -/

theorem exec_modified {i : Instr} {s t : State} (hmod : s.modified = false) (h : exec i s = .next t) :
    t.modified = true ↔ i = .cls ∨ ∃ x y n, i = .drwVxVyN x y n := by
  by_cases hcls : i = .cls
  · subst hcls
    cases h
    simp
  by_cases hdrw : ∃ x y n, i = .drwVxVyN x y n
  · obtain ⟨x, y, n, rfl⟩ := hdrw
    obtain ⟨-, hnext⟩ := guardRange_eq_next.1 h
    cases hnext
    simp
  · obtain ⟨-, hsame⟩ := (exec_frame i s t h).display hcls fun x y n e => hdrw ⟨x, y, n, e⟩
    simp [hsame, hmod, hcls, hdrw]

/-- Settles O18: execution leaves `MOD` 1 exactly for the two, and the end of the step emits by it and clears it. -/
theorem frameExactlyAfterClsOrDrw : Obligations.FrameExactlyAfterClsOrDrw := by
  intro s hmod
  obtain ⟨i, u, hi, hexec, -, hreport⟩ | ⟨f, -, hreport⟩ | ⟨r, -, hreport⟩ := stepReport_cases s
  · have hframe : u.tick.frameOut = if u.modified then some u.fb else none := rfl
    rw [hreport]
    simp [hframe, hi, exec_modified hmod hexec]
  · simp [hreport, hmod]
  · simp [hreport, hmod]

end Sys2Proof.Machine
end

section
/-! SUPPORT. The wait of `Fx0A` and the end of a run (40_step_cycle.md R98, R99; 60_exceptions.md R195). -/

namespace Sys2Proof.Machine

/-! ## The wait -/

theorem exec_eq_keyWait {i : Instr} {s : State} :
    exec i s = .fault .keyWait ↔ (∃ x, i = .ldVxK x) ∧ ∀ k : Key, s.key k.val = false := by
  rw [execFaultsExactlyOnTheseConditions]
  simp

theorem step_eq_keyWait {s : State} : step s = .fault .keyWait ↔ WaitsForKey s := by
  simp only [step_eq_fault, fetchDecode_ne_keyWait, false_or, exec_eq_keyWait, WaitsForKey]
  constructor
  · rintro ⟨i, hi, ⟨x, rfl⟩, hkeys⟩
    exact ⟨⟨x, hi⟩, hkeys⟩
  · rintro ⟨⟨x, hi⟩, hkeys⟩
    exact ⟨_, hi, ⟨x, rfl⟩, hkeys⟩

theorem waitsForKey_keyUp {s : State} (h : WaitsForKey s) (k : Key) : WaitsForKey (s.keyUp k) := by
  obtain ⟨hinstr, hkeys⟩ := h
  refine ⟨hinstr, fun j => ?_⟩
  rw [State.keyUp_key]
  simp [hkeys]

theorem State.keyUp_of_not_pressed {s : State} {k : Key} (h : s.key k.val = false) : s.keyUp k = s := by
  have hkeys : (s.keyUp k).keys = s.keys := by
    refine BitVec.eq_of_getLsbD_eq fun j hj => ?_
    have hbit := s.keyUp_key k ⟨j, hj⟩
    split_ifs at hbit with e
    · exact hbit.trans (by rw [← h, ← e]; rfl)
    · exact hbit
  rw [show s.keyUp k = s.setKeys (s.keyUp k).keys from rfl, hkeys]
  rfl

/-- `Fx0A` in a state whose lowest pressed key is `k`. -/
theorem exec_ldVxK_of_lowest {x : Reg} {s : State} {k : Key} (hk : s.key k.val = true)
    (hlower : ∀ j : Key, j.val < k.val → s.key j.val = false) :
    exec (.ldVxK x) s = .next (s.setReg x (BitVec.ofNat 8 k.val)).advancePc := by
  have hlowest : s.lowestKey = some k.val :=
    State.lowestKey_eq_some.2 ⟨k.isLt, hk, fun j hj => hlower ⟨j, by omega⟩ hj⟩
  have hexec : exec (.ldVxK x) s = execLdVxK x s := rfl
  simp [hexec, execLdVxK, hlowest]

theorem keyByte_toNat (k : Key) : (BitVec.ofNat 8 k.val).toNat = k.val := by
  simp
  omega

/-- Settles O19: the wait is the one outcome of `Fx0A` without a key, nothing but a key leaves it, and the first key
pressed is the lowest one. -/
theorem stallHoldsStateUntilKeyDown : Obligations.StallHoldsStateUntilKeyDown := by
  intro s
  obtain ⟨-, hstalled, -⟩ := faultingStepLeavesStateAndEmitsNoFrame s
  refine ⟨hstalled.trans step_eq_keyWait, step_eq_keyWait, fun hwait => ?waits, fun x hi hkeys k => ?completes⟩
  case waits =>
    obtain ⟨-, -, hfault⟩ := faultingStepLeavesStateAndEmitsNoFrame s
    obtain ⟨hstate, hframe⟩ := (hfault .keyWait).2 (step_eq_keyWait.2 hwait)
    refine ⟨hstate, hframe, waitsForKey_keyUp hwait, fun h h' a hcore hp ha => ?_⟩
    subst hcore
    obtain rfl | rfl | ⟨k, rfl⟩ := ha
    · cases hp
      exact hstate
    · cases hp
      rfl
    · cases hp
      exact State.keyUp_of_not_pressed (hwait.2 k)
  case completes =>
    have hexec : exec (.ldVxK x) (s.keyDown k) = .next ((s.keyDown k).setReg x (BitVec.ofNat 8 k.val)).advancePc :=
      exec_ldVxK_of_lowest (by simp [State.keyDown_key]) fun j hj => by
        rw [State.keyDown_key, if_neg (Fin.ne_of_lt hj)]
        exact hkeys j
    have hi' : fetchDecode (s.keyDown k) = .ok (.ldVxK x) := hi
    refine ⟨by rw [stepReport_of_exec_next hi' hexec], _, step_eq_next.2 ⟨_, _, hi', hexec, rfl⟩, ?_, rfl, rfl, rfl⟩
    rw [State.complete_reg, State.advancePc_reg, State.setReg_reg, if_pos rfl, keyByte_toNat]

/-! ## The end of a run -/

theorem tickByte_eq_self {t : Byte} : tickByte t = t ↔ t = 0#8 := by
  rw [← BitVec.toNat_inj, ← BitVec.toNat_inj, tickByte_toNat]
  simp
  omega

theorem core_run_of_fixed {t : State} (hfix : step t = .next t) (j : Nat) :
    (Sys2Proof.core.run j t : Result) = .next t := by
  induction j with
  | zero => rfl
  | succ j ih => exact core_run_succ.2 ⟨t, hfix, ih⟩

/-- A run that comes to a fixed point stays there. -/
theorem core_run_add_of_fixed {s t : State} (hfix : step t = .next t) {k : Nat} (j : Nat)
    (hrun : (Sys2Proof.core.run k s : Result) = .next t) : (Sys2Proof.core.run (k + j) s : Result) = .next t := by
  induction k generalizing s with
  | zero =>
    cases hrun
    rw [Nat.zero_add]
    exact core_run_of_fixed hfix j
  | succ k ih =>
    obtain ⟨u, hstep, hrest⟩ := core_run_succ.1 hrun
    rw [Nat.add_right_comm]
    exact core_run_succ.2 ⟨u, hstep, ih hrest⟩

/-- R99: at a jump to its own address with nothing left to tick or to emit, a step changes nothing. -/
theorem step_of_ended {s : State} (hended : s.Ended) (hmod : s.modified = false) : step s = .next s := by
  obtain ⟨hdt, hst, nnn, hi, hnnn⟩ := hended
  have hpc : zextAddr nnn = s.pc := BitVec.eq_of_toNat_eq (by rw [zextAddr_toNat, hnnn])
  have hexec : exec (.jpNnn nnn) s = .next (s.jump (zextAddr nnn)) := rfl
  refine step_eq_next.2 ⟨_, _, hi, hexec, ?_⟩
  rw [hpc]
  cases s
  subst hdt hst hmod
  rfl

theorem exec_pc_ne {i : Instr} (hjp : ∀ nnn, i ≠ .jpNnn nnn) (hcall : ∀ nnn, i ≠ .callNnn nnn)
    (hjpV0 : ∀ nnn, i ≠ .jpV0Nnn nnn) (hret : i ≠ .ret) {s t : State} (h : exec i s = .next t) : t.pc ≠ s.pc := by
  intro hpc
  have hadvance : t.pc.toNat = (s.pc.toNat + if skipTaken i s then 4 else 2) % 2 ^ 16 :=
    exec_pc hjp hcall hjpV0 hret s t h
  rw [hpc] at hadvance
  have := s.pc.isLt
  split_ifs at hadvance <;> omega

/-- An instruction that leaves `PC` and `SP` as they were is one of the two jumps. -/
theorem eq_jump_of_exec_fixed {i : Instr} {s u : State} (hexec : exec i s = .next u) (hpc : u.pc = s.pc)
    (hsp : u.sp = s.sp) : (∃ nnn, i = .jpNnn nnn) ∨ ∃ nnn, i = .jpV0Nnn nnn := by
  cases i with
  | jpNnn nnn => exact .inl ⟨nnn, rfl⟩
  | jpV0Nnn nnn => exact .inr ⟨nnn, rfl⟩
  | callNnn nnn =>
    have := exec_callNnn_sp hexec
    rw [hsp] at this
    omega
  | ret =>
    have := exec_ret_sp hexec
    rw [hsp] at this
    omega
  | _ => exact absurd hpc (exec_pc_ne (by simp) (by simp) (by simp) (by simp) hexec)

/-- Settles O20: the steps of a fixed point keep `PC` and `SP`, which only a jump to itself does, and a timer that
the tick leaves as it is is 0. -/
theorem selfJumpIsFixedPoint : Obligations.SelfJumpIsFixedPoint := by
  refine ⟨fun s nnn hi hnnn hdt hst hmod => ?jump, fun k j s t hends hmod => ?later, fun s hfix => ?fixed⟩
  case jump =>
    have hended : s.Ended := ⟨hdt, hst, nnn, hi, hnnn.symm⟩
    exact ⟨hended, step_of_ended hended hmod⟩
  case later => exact ⟨core_run_add_of_fixed (step_of_ended hends.2 hmod) j hends.1, hends.2⟩
  case fixed =>
    obtain ⟨i, u, hi, hexec, hu⟩ := step_eq_next.1 hfix
    have hpc : s.pc = u.pc := by rw [← u.complete_pc, ← hu]
    have hsp : s.sp = u.sp := by rw [← u.complete_sp, ← hu]
    have hmod : s.modified = false := congrArg State.modified hu
    have hframe := exec_frame i s u hexec
    have hdt : s.dt = tickByte u.dt := congrArg State.dt hu
    have hst : s.st = tickByte u.st := congrArg State.st hu
    obtain ⟨nnn, rfl⟩ | ⟨nnn, rfl⟩ := eq_jump_of_exec_fixed hexec hpc.symm hsp.symm
    all_goals
      rw [hframe.delay (by simp), eq_comm, tickByte_eq_self] at hdt
      rw [hframe.sound (by simp), eq_comm, tickByte_eq_self] at hst
      have htarget := pcIsTargetOrAdvances _ s u hexec
      rw [← hpc] at htarget
    · exact ⟨hdt, hst, hmod, .inl ⟨hdt, hst, nnn, hi, htarget.symm⟩⟩
    · have hsum : s.pc.toNat = (nnn.toNat + (s.reg 0).toNat) % 2 ^ 16 := htarget
      exact ⟨hdt, hst, hmod, .inr ⟨nnn, hi, by omega⟩⟩

end Sys2Proof.Machine
end

section
/-! SUPPORT. What the host does beside key events: reset, load, snapshot, and a session of its actions (10_state.md R38
to R44; 60_exceptions.md R186). -/

namespace Sys2Proof.Machine

/-! ## Reset -/

/-- R44: the font lies at 0x050 to 0x09F. -/
theorem resetByte_eq (a : Nat) : resetByte a =
    if 0x050 ≤ a ∧ a ≤ 0x09F then Config.font.getD (a - 0x050) 0x00#8 else 0x00#8 := by
  have hlen : Config.font.length = 0x50 := rfl
  have hbase : Config.fontBase = 0x050 := rfl
  unfold resetByte
  by_cases hlow : 0x050 ≤ a
  · by_cases hhigh : a ≤ 0x09F
    · rw [if_pos hlow, if_pos ⟨hlow, hhigh⟩]
    · rw [if_pos hlow, if_neg fun h => hhigh h.2, List.getD_eq_default _ _ (by omega)]
  · rw [if_neg hlow, if_neg fun h => hlow h.1]

/-- R44: every register, stack entry, cell and key is 0 after reset. -/
theorem reset_zero : (∀ r, State.reset.reg r = 0x00#8) ∧ (∀ j, State.reset.stackEntry j = 0x0000#16) ∧
    (∀ c, State.reset.fb.cell c = false) ∧ ∀ k, State.reset.key k = false := by
  refine ⟨fun r => ?_, fun j => ?_, FrameBuffer.cell_clear, fun k => ?_⟩
  · simp [State.reg, State.reset]
  · simp [State.stackEntry, State.reset]
  · simp [State.key, State.reset]

/-- Settles O7: the reset state is written out, and a host's reset is that state but for `MEM` and the draws. -/
theorem resetSetsEveryElement : Obligations.ResetSetsEveryElement := by
  obtain ⟨hregs, hstack, hcells, hkeys⟩ := reset_zero
  exact ⟨⟨hregs, rfl, rfl, rfl, rfl, rfl, hstack, hcells, rfl, hkeys, resetByte_eq⟩,
    fun h => ⟨h.core.explicitReset, rfl, hregs, rfl, rfl, rfl, rfl, rfl, hstack, hcells, rfl, hkeys, rfl, rfl⟩⟩

/-! ## Load -/

/-- A block write leaves every address outside the block as it was. -/
theorem Memory.read_writeBlock_outside {m : Memory} (hm : m.wf) {a b : Nat} {bs : List Byte}
    (hb : ¬(a ≤ b ∧ b < a + bs.length)) : (m.writeBlock a bs).read b = m.read b := by
  rw [Memory.read_writeBlock hm.1]
  split_ifs with hab
  · exact List.getD_eq_default _ _ (by omega)
  · rfl

/-- Settles O8: a load that fits is one block write at 0x200. -/
theorem loadPlacesImageAndNothingElse : Obligations.LoadPlacesImageAndNothingElse := by
  refine fun s bytes hm => ⟨fun hfits => ?loads, fun hlong => if_neg (Nat.not_le.2 hlong)⟩
  case loads =>
    exact ⟨_, State.load_eq_some.2 ⟨hfits, rfl⟩, fun j b => Memory.read_writeBlock_getElem? hm,
      fun a => Memory.read_writeBlock_outside hm, rfl⟩

/-! ## Snapshot -/

/-- Settles O10: a snapshot is accepted always and updates the last snapshot alone. -/
theorem snapshotReturnsDisplayAndChangesNothing : Obligations.SnapshotReturnsDisplayAndChangesNothing :=
  fun _ => ⟨_, rfl, rfl, rfl, rfl⟩

/-! ## A session -/

theorem fault?_eq_some {r : StepResult} {f : Fault} : r.fault? = some f ↔ r = .fault f := by
  cases r <;> simp [StepResult.fault?]

/-- An accepted action keeps the recorded fault, and a session that has started stays so. -/
theorem Session.perform_keeps {h h' : Session} {a : HostAction} (hp : h.perform a = .ok h') :
    (∀ f, h.faulted = some f → h'.faulted = some f) ∧ (h.started = true ∨ a = .step → h'.started = true) := by
  cases a with
  | step =>
    cases hp
    exact ⟨fun f hf => by simp [hf], fun _ => rfl⟩
  | load bytes =>
    obtain ⟨s, -, rfl⟩ := Session.perform_load_eq_ok hp
    simp
  | reset | keyDown | keyUp | snapshot =>
    cases hp
    simp

theorem Session.performAll_cons_eq_ok {h h' : Session} {a : HostAction} {as : List HostAction} :
    h.performAll (a :: as) = .ok h' ↔ ∃ u, h.perform a = .ok u ∧ u.performAll as = .ok h' := by
  simp only [Session.performAll]
  cases h.perform a <;> simp

/-- So do any number of accepted actions. -/
theorem Session.performAll_keeps {h h' : Session} {as : List HostAction} (hp : h.performAll as = .ok h') :
    (∀ f, h.faulted = some f → h'.faulted = some f) ∧
      (h.started = true ∨ HostAction.step ∈ as → h'.started = true) := by
  induction as generalizing h with
  | nil =>
    cases hp
    simp
  | cons a as ih =>
    obtain ⟨u, hfirst, hrest⟩ := Session.performAll_cons_eq_ok.1 hp
    obtain ⟨hfault, hstart⟩ := Session.perform_keeps hfirst
    obtain ⟨hfault', hstart'⟩ := ih hrest
    refine ⟨fun f hf => hfault' f (hfault f hf), fun hstep => hstart' ?_⟩
    rw [List.mem_cons, ← or_assoc] at hstep
    exact hstep.imp_left fun h => hstart (h.imp_right Eq.symm)

/-- Settles O11: a step and a load by their definitions, and what every accepted action keeps, along any list of
them. -/
theorem sessionKeepsFaultRecordAndRefusesLateLoad : Obligations.SessionKeepsFaultRecordAndRefusesLateLoad := by
  refine ⟨fun h => ⟨_, rfl, rfl, rfl, rfl, rfl, fun f hnone hf => ?first, fun hno => ?clean⟩,
    fun h bytes hstart => ⟨fun s hload => ?accepted, fun hload => ?tooLong⟩, fun h h' later hp => ?later⟩
  case first => rw [hnone, Option.none_or, hf]; rfl
  case clean =>
    have hnone : (stepReport h.core).result.fault? = none :=
      Option.eq_none_iff_forall_ne_some.2 fun f hf => hno f (fault?_eq_some.1 hf)
    rw [hnone, Option.or_none]
  case accepted => simp [Session.perform, hstart, hload]
  case tooLong => simp [Session.perform, hstart, hload]
  case later =>
    obtain ⟨hfault, hstart⟩ := Session.performAll_keeps hp
    exact ⟨hfault, fun hstep bytes => if_pos (hstart hstep)⟩

end Sys2Proof.Machine
end

section
/-! SUPPORT. The control-flow group and the skips, instruction by instruction (43_control_flow.md, 44_skip.md,
47_input.md). -/

namespace Sys2Proof.Machine

/-! ## Control flow -/

/-- Settles O35: its meaning is the advance of `PC` alone. -/
theorem sysOnlyAdvances : Obligations.SysOnlyAdvances :=
  fun _ s => ⟨_, rfl, rfl, onlyPcChanges_setPc s _⟩

/-- Settles O36: the sum of a 12-bit address and a byte does not reach 2^16. -/
theorem jumpsGoToTheirTargets : Obligations.JumpsGoToTheirTargets := by
  refine fun nnn s => ⟨⟨_, rfl, zextAddr_toNat nnn, onlyPcChanges_setPc s _⟩, _, rfl, ?_, onlyPcChanges_setPc s _⟩
  have := (s.reg 0).isLt
  rw [State.jump_pc, BitVec.toNat_add, zextAddr_toNat, zextByte_toNat]
  omega

/-- Settles O37: the push of a call. -/
theorem callPushesReturnAddress : Obligations.CallPushesReturnAddress := by
  refine fun nnn s => ⟨fun j hj => ?pushes, fun hfull => exec_callNnn_eq_stackOverflow.2 hfull⟩
  case pushes =>
    obtain ⟨t, hpush, hnext⟩ | ⟨hfull, -⟩ := exec_callNnn_cases nnn s
    · refine ⟨_, hnext, zextAddr_toNat nnn, by rw [State.jump_sp, State.push_sp hpush], ?_, fun k hk => ?_, ?_⟩
      · exact (State.push_entry hpush j).trans (if_pos hj.symm)
      · exact (State.push_entry hpush k).trans (if_neg fun e => hk (Fin.ext (e.trans hj)))
      · rw [State.push_frame hpush]
        exact ⟨fun _ _ => rfl, rfl, fun _ => rfl, ⟨rfl, rfl⟩, ⟨rfl, rfl⟩, rfl, rfl⟩
    · omega

/-- Settles O38: the pop of a return. -/
theorem retPopsReturnAddress : Obligations.RetPopsReturnAddress := by
  refine fun s => ⟨fun j hj => ?pops, fun hempty => exec_ret_eq_fault.2 ⟨Fin.ext hempty, rfl⟩⟩
  case pops =>
    obtain ⟨w, t, hpop, hnext⟩ | ⟨hempty, -⟩ := exec_ret_cases s
    · have hsp := State.pop_sp hpop
      refine ⟨_, hnext, State.pop_entry hpop hj, by rw [State.jump_sp]; omega, ?_⟩
      rw [State.pop_frame hpop]
      exact ⟨rfl, fun _ _ => rfl, rfl, fun _ => rfl, ⟨rfl, rfl⟩, ⟨rfl, rfl⟩, rfl, rfl⟩
    · omega

/-- Settles O40: the return pops the entry the call pushed. -/
theorem callThenRetReturnsBehindCall : Obligations.CallThenRetReturnsBehindCall := by
  intro nnn s t hcall
  obtain ⟨u, hpush, hnext⟩ | ⟨-, hfault⟩ := exec_callNnn_cases nnn s
  · obtain rfl : u.jump (zextAddr nnn) = t := by simpa [hnext] using hcall
    have hpushed := State.push_sp hpush
    obtain ⟨hlt, -⟩ := State.push_eq_some.1 hpush
    obtain ⟨w, r, hpop, hret⟩ | ⟨hempty, -⟩ := exec_ret_cases (u.jump (zextAddr nnn))
    · have hpopped := State.pop_sp hpop
      rw [State.jump_sp] at hpopped
      have hentry := State.push_entry hpush ⟨s.sp.val, hlt⟩
      refine ⟨_, hret, ?_, Fin.ext (by rw [State.jump_sp]; omega)⟩
      rw [State.jump_pc, State.pop_entry hpop (j := ⟨s.sp.val, hlt⟩) hpushed]
      exact hentry.trans (if_pos rfl)
    · rw [State.jump_sp] at hempty
      omega
  · simp [hfault] at hcall

/-! ## Skips -/

/-- A skip's next state, with its condition as a proposition. -/
theorem skipIf_next (s : State) {taken : Bool} {p : Prop} [Decidable p] (h : taken = true ↔ p) :
    ∃ t, (.next (s.skipIf taken) : Result) = .next t ∧ OnlyPcChanges s t ∧
      t.pc = s.pc + if p then 4#16 else 2#16 :=
  ⟨_, rfl, onlyPcChanges_setPc s _, by simp only [State.skipIf_pc, h]⟩

/-- Settles O41: each of the four is a skip on its condition. -/
theorem comparingSkipsSkipOnTheirCondition : Obligations.ComparingSkipsSkipOnTheirCondition :=
  fun _ _ _ s => ⟨skipIf_next s beq_iff_eq, skipIf_next s bne_iff_ne, skipIf_next s beq_iff_eq,
    skipIf_next s bne_iff_ne⟩

/-- Settles O42: behind the guard of the key index both are skips on the latch. -/
theorem keySkipsTestTheLatch : Obligations.KeySkipsTestTheLatch := by
  refine fun x s => ⟨fun hkey => ⟨?skp, ?sknp⟩,
    fun hkey => ⟨guardKey_eq_fault.2 ⟨hkey, rfl⟩, guardKey_eq_fault.2 ⟨hkey, rfl⟩⟩⟩
  case skp =>
    obtain ⟨t, hnext, hframe, hpc⟩ := skipIf_next s (taken := s.key (s.reg x).toNat) Iff.rfl
    exact ⟨t, guardKey_eq_next.2 ⟨hkey, hnext⟩, hframe, hpc⟩
  case sknp =>
    obtain ⟨t, hnext, hframe, hpc⟩ := skipIf_next s (iff_of_eq (Bool.not_eq_true' (s.key (s.reg x).toNat)))
    exact ⟨t, guardKey_eq_next.2 ⟨hkey, hnext⟩, hframe, hpc⟩

/-- Settles O43: the lowest pressed key, or the wait. -/
theorem waitKeyTakesLowestPressedKey : Obligations.WaitKeyTakesLowestPressedKey := by
  refine fun x s => ⟨fun k hk hlower => ?takes, fun hnone => exec_eq_keyWait.2 ⟨⟨x, rfl⟩, hnone⟩⟩
  case takes =>
    refine ⟨_, exec_ldVxK_of_lowest hk hlower, ?_, rfl, onlyRegsChange_setReg s x _⟩
    rw [State.advancePc_reg, State.setReg_reg, if_pos rfl, keyByte_toNat]

end Sys2Proof.Machine
end

section
/-! SUPPORT. The arithmetic, logic and shift groups, instruction by instruction (41_arithmetic.md, 42_logic_shift.md):
a result and perhaps a flag, in registers alone. -/

namespace Sys2Proof.Machine

/-! ## The two shapes -/

/-- A result in `V[x]` and the advance of `PC`, for any property of the result. -/
theorem setReg_next (s : State) (x : Reg) {b : Byte} {P : Byte → Prop} (h : P b) :
    ∃ t, (.next (s.setReg x b).advancePc : Result) = .next t ∧ P (t.reg x) ∧ t.pc = s.pc + 2#16 ∧
      OnlyRegsChange [x] s t :=
  ⟨_, rfl, by rwa [State.advancePc_reg, State.setReg_reg, if_pos rfl], rfl, onlyRegsChange_setReg s x b⟩

/-- A result in `V[x]`, a flag in `VF` and the advance of `PC`: the flag survives when `x` is 0xF (R106). -/
theorem setRegAndFlag_next (s : State) (x : Reg) {b f : Byte} {P Q : Byte → Prop} (hb : P b) (hf : Q f) :
    ∃ t, (.next (s.setRegAndFlag x b f).advancePc : Result) = .next t ∧ (x ≠ vf → P (t.reg x)) ∧ Q (t.reg vf) ∧
      t.pc = s.pc + 2#16 ∧ OnlyRegsChange [x, vf] s t := by
  refine ⟨_, rfl, fun hx => ?_, ?_, rfl, onlyRegsChange_setRegAndFlag s x b f⟩
  · rwa [State.advancePc_reg, State.setRegAndFlag_reg, if_neg hx, if_pos rfl]
  · rwa [State.advancePc_reg, State.setRegAndFlag_reg, if_pos rfl]

/-! ## Values -/

theorem carryFlag_toNat (a b : Byte) : (carryFlag a b).toNat = if a.toNat + b.toNat > 255 then 1 else 0 := by
  simp [carryFlag]

theorem noBorrowFlag_toNat (a b : Byte) : (noBorrowFlag a b).toNat = if a.toNat < b.toNat then 0 else 1 := by
  simp only [noBorrowFlag, flagByte_toNat, decide_eq_true_eq]
  split_ifs <;> omega

theorem sub_toNat_int (a b : Byte) : ((a - b).toNat : Int) = (a.toNat - b.toNat : Int) % 256 := by
  have := a.isLt
  have := b.isLt
  rw [BitVec.toNat_sub]
  omega

theorem lowBitFlag_toNat (a : Byte) : (lowBitFlag a).toNat = a.toNat % 2 := by
  rw [lowBitFlag, flagByte_toNat, BitVec.getLsbD, Nat.testBit_zero]
  simp only [decide_eq_true_eq]
  split_ifs <;> omega

theorem highBitFlag_toNat (a : Byte) : (highBitFlag a).toNat = a.toNat / 128 := by
  have := a.isLt
  rw [highBitFlag, flagByte_toNat, BitVec.getLsbD, Nat.testBit_eq_decide_div_mod_eq]
  simp only [decide_eq_true_eq]
  split_ifs <;> omega

/-! ## The obligations -/

/-- Settles O44: a move and a sum modulo 256, in `V[x]` alone. -/
theorem immediateLoadAndAddSetNoFlag : Obligations.ImmediateLoadAndAddSetNoFlag :=
  fun x kk s => ⟨setReg_next s x (P := (· = kk)) rfl,
    setReg_next s x (P := fun b => b.toNat = ((s.reg x).toNat + kk.toNat) % 256) (BitVec.toNat_add _ _)⟩

/-- Settles O45: a move and the three bitwise operations, in `V[x]` alone. -/
theorem logicActsBitwiseAndSetsNoFlag : Obligations.LogicActsBitwiseAndSetsNoFlag :=
  fun x y s => ⟨setReg_next s x (P := (· = s.reg y)) rfl,
    setReg_next s x (P := fun v => ∀ b, v.getLsbD b = ((s.reg x).getLsbD b || (s.reg y).getLsbD b))
      fun _ => BitVec.getLsbD_or,
    setReg_next s x (P := fun v => ∀ b, v.getLsbD b = ((s.reg x).getLsbD b && (s.reg y).getLsbD b))
      fun _ => BitVec.getLsbD_and,
    setReg_next s x (P := fun v => ∀ b, v.getLsbD b = ((s.reg x).getLsbD b ^^ (s.reg y).getLsbD b))
      fun _ => BitVec.getLsbD_xor⟩

/-- Settles O46: the sum and its carry, both of the old operands. -/
theorem addSetsSumAndCarry : Obligations.AddSetsSumAndCarry :=
  fun x y s => setRegAndFlag_next s x (P := fun b => b.toNat = ((s.reg x).toNat + (s.reg y).toNat) % 256)
    (Q := fun f => f.toNat = if (s.reg x).toNat + (s.reg y).toNat > 255 then 1 else 0)
    (BitVec.toNat_add _ _) (carryFlag_toNat _ _)

/-- Settles O47: the two differences, each with the complement of its own borrow. -/
theorem subtractionsSetDifferenceAndNoBorrow : Obligations.SubtractionsSetDifferenceAndNoBorrow :=
  fun x y s => ⟨
    setRegAndFlag_next s x (P := fun b => (b.toNat : Int) = ((s.reg x).toNat - (s.reg y).toNat : Int) % 256)
      (Q := fun f => f.toNat = if (s.reg x).toNat < (s.reg y).toNat then 0 else 1)
      (sub_toNat_int _ _) (noBorrowFlag_toNat _ _),
    setRegAndFlag_next s x (P := fun b => (b.toNat : Int) = ((s.reg y).toNat - (s.reg x).toNat : Int) % 256)
      (Q := fun f => f.toNat = if (s.reg y).toNat < (s.reg x).toNat then 0 else 1)
      (sub_toNat_int _ _) (noBorrowFlag_toNat _ _)⟩

/-- Settles O48: the two shifts, each with the bit that leaves the byte. -/
theorem shiftsMoveByOneAndKeepTheBitOut : Obligations.ShiftsMoveByOneAndKeepTheBitOut :=
  fun x y s => ⟨
    setRegAndFlag_next s x (P := fun b => b.toNat = (s.reg x).toNat / 2)
      (Q := fun f => f.toNat = (s.reg x).toNat % 2) (by simp [Nat.shiftRight_eq_div_pow]) (lowBitFlag_toNat _),
    setRegAndFlag_next s x (P := fun b => b.toNat = (s.reg x).toNat * 2 % 256)
      (Q := fun f => f.toNat = (s.reg x).toNat / 128) (by simp [Nat.shiftLeft_eq]) (highBitFlag_toNat _)⟩

/-- Settles O49: the masked byte of this draw in `V[x]`, and the draw counted. -/
theorem rndMasksAFreshByte : Obligations.RndMasksAFreshByte := by
  refine fun x kk s => ⟨_, rfl, fun b => ?_, rfl, rfl, sameRegsExcept_setReg s x _, rfl, fun _ => rfl, ⟨rfl, rfl⟩,
    ⟨rfl, rfl⟩, ⟨rfl, rfl⟩, rfl⟩
  rw [State.advancePc_reg, State.nextDraw_reg, State.setReg_reg, if_pos rfl, BitVec.getLsbD_and]

end Sys2Proof.Machine
end

section
/-! SUPPORT. The index, memory and timer groups, instruction by instruction (45_memory_index.md, 46_timer.md). -/

namespace Sys2Proof.Machine

/-! ## Index -/

theorem glyphAddr_toNat (b : Byte) : (glyphAddr b).toNat = 0x050 + 5 * b.toNat := by
  have := b.isLt
  simp only [glyphAddr, Config.fontBase, BitVec.toNat_ofNat]
  omega

/-- A new `I` and the advance of `PC`, for any property of the index. -/
theorem setIndex_next (s : State) {w : Word} {P : Word → Prop} (h : P w) :
    ∃ t, (.next (s.setIndex w).advancePc : Result) = .next t ∧ P t.i ∧ t.pc = s.pc + 2#16 ∧
      SameRegsExcept [] s t ∧ SameMemory s t ∧ SameStack s t ∧ SameTimers s t ∧ SameDisplay s t ∧ SameInputs s t :=
  ⟨_, rfl, h, rfl, fun _ _ => rfl, fun _ => rfl, ⟨rfl, rfl⟩, ⟨rfl, rfl⟩, ⟨rfl, rfl⟩, rfl, rfl⟩

/-- Settles O50: three values of `I`, and nothing else but `PC`. -/
theorem indexInstructionsSetI : Obligations.IndexInstructionsSetI := by
  refine fun nnn x s => ⟨setIndex_next s (P := fun w => w.toNat = nnn.toNat) (zextAddr_toNat nnn),
    setIndex_next s (P := fun w => w.toNat = (s.i.toNat + (s.reg x).toNat) % 2 ^ 16) ?_,
    setIndex_next s (P := fun w => w.toNat = 0x050 + 5 * (s.reg x).toNat) (glyphAddr_toNat _)⟩
  rw [BitVec.toNat_add, zextByte_toNat]

/-! ## Block accesses -/

theorem rangeOk_of_last {base : Word} {n : Nat} (h : base.toNat + n ≤ 0xFFF) : rangeOk base (n + 1) = true :=
  rangeOk_iff.2 (.inr (by omega))

/-- R57: an access of `n + 1` bytes whose last address is above 0xFFF faults. -/
theorem guardRange_of_last_outside {base : Word} {n : Nat} {k : Result} (h : 0xFFF < base.toNat + n) :
    guardRange base (n + 1) k = .fault (.boundsViolation (max base.toNat 0x1000)) := by
  obtain ⟨hok, -⟩ | ⟨-, hfault⟩ := guardRange_cases base (n + 1) k
  · rw [rangeOk_iff] at hok
    omega
  · exact hfault

/-- R144, R145: `I` after a block transfer, for both values of the open parameter. -/
theorem State.afterBlock_toNat (s : State) (x : Reg) : (s.afterBlock x).toNat =
    if Config.blockXferAdvancesI then (s.i.toNat + x.val + 1) % 2 ^ 16 else s.i.toNat := by
  unfold State.afterBlock
  split_ifs
  · rw [BitVec.toNat_add, BitVec.toNat_ofNat, Nat.add_mod_mod, Nat.add_assoc]
  · rfl

/-- Settles O51: behind the guard, one block write of the three digits at `I`. -/
theorem bcdStoresThreeDigits : Obligations.BcdStoresThreeDigits := by
  refine fun x s => ⟨fun hm hfits => ?stores, fun hout => guardRange_of_last_outside hout⟩
  case stores =>
    have hread {j n : Nat} (hd : (bcdDigits (s.reg x))[j]? = some (BitVec.ofNat 8 n)) (hn : n < 256) :
        ((s.mem.writeBlock (s.effAddr 0) (bcdDigits (s.reg x))).read (s.effAddr j)).toNat = n := by
      rw [show s.effAddr j = s.effAddr 0 + j from rfl, Memory.read_writeBlock_getElem? hm hd]
      exact (BitVec.toNat_ofNat n 8).trans (Nat.mod_eq_of_lt hn)
    have hbyte := (s.reg x).isLt
    exact ⟨_, guardRange_eq_next.2 ⟨rangeOk_of_last hfits, rfl⟩, hread rfl (by omega), hread rfl (by omega),
      hread rfl (by omega), fun a ha => Memory.read_writeBlock_outside (bs := bcdDigits (s.reg x)) hm ha, rfl,
      fun _ _ => rfl, rfl, ⟨rfl, rfl⟩, ⟨rfl, rfl⟩, ⟨rfl, rfl⟩, rfl, rfl⟩

/-- Settles O52: behind the guard, one block write of the registers at `I`. -/
theorem blockStoreWritesRegisters : Obligations.BlockStoreWritesRegisters := by
  refine fun x s => ⟨fun hm hfits => ?stores, fun hout => guardRange_of_last_outside hout⟩
  case stores =>
    refine ⟨_, guardRange_eq_next.2 ⟨rangeOk_of_last hfits, rfl⟩,
      fun j hj => Memory.read_writeBlock_getElem? hm (s.regBlock_getElem? x j hj),
      fun a ha => Memory.read_writeBlock_outside hm (by rwa [State.regBlock_length]), s.afterBlock_toNat x, rfl,
      fun _ _ => rfl, ⟨rfl, rfl⟩, ⟨rfl, rfl⟩, ⟨rfl, rfl⟩, rfl, rfl⟩

/-- Settles O53: behind the guard, the bytes from `I` in the registers from `V0`. -/
theorem blockLoadReadsRegisters : Obligations.BlockLoadReadsRegisters := by
  refine fun x s => ⟨fun hfits => ?loads, fun hout => guardRange_of_last_outside hout⟩
  case loads =>
    refine ⟨_, guardRange_eq_next.2 ⟨rangeOk_of_last hfits, rfl⟩, fun j => ?_, s.afterBlock_toNat x, by simp,
      fun _ => by simp, by simp [SameStack], by simp [SameTimers], by simp [SameDisplay], by simp [SameInputs]⟩
    rw [State.advancePc_reg, State.setIndex_reg, State.loadRegs_reg _ _ _ (by rw [Memory.readBlock_length]; omega),
      if_pos (Nat.zero_le _), List.getD_eq_getElem?_getD, Memory.readBlock_getElem?]
    by_cases hj : j.val ≤ x.val
    · simp [hj, Nat.lt_succ_of_le hj, State.effAddr_eq]
    · simp [hj]

/-! ## Timers -/

/-- Settles O55: the byte read is that of the state before, and nothing but its target and `PC` changes. -/
theorem timerMovesCopyTheByte : Obligations.TimerMovesCopyTheByte :=
  fun x s => ⟨setReg_next s x (P := (· = s.dt)) rfl,
    ⟨_, rfl, rfl, rfl, rfl, fun _ _ => rfl, rfl, fun _ => rfl, ⟨rfl, rfl⟩, ⟨rfl, rfl⟩, rfl, rfl⟩,
    ⟨_, rfl, rfl, rfl, rfl, fun _ _ => rfl, rfl, fun _ => rfl, ⟨rfl, rfl⟩, ⟨rfl, rfl⟩, rfl, rfl⟩⟩

end Sys2Proof.Machine
end

section
/-! SUPPORT. The display group (48_display.md): clearing, drawing twice, and the whole of `DRW`. -/

namespace Sys2Proof.Machine

/-- Settles O56: the cleared display holds 0 in every cell, and `MOD` is set with it. -/
theorem clsClearsEveryCell : Obligations.ClsClearsEveryCell :=
  fun _ => ⟨_, rfl, FrameBuffer.cell_clear, rfl, rfl, fun _ _ => rfl, rfl, fun _ => rfl, ⟨rfl, rfl⟩, ⟨rfl, rfl⟩,
    rfl, rfl⟩

/-- Settles O58: a sprite is smaller than the screen in both directions. -/
theorem spritePixelsTargetDistinctCells : Obligations.SpritePixelsTargetDistinctCells :=
  fun _ _ _ _ _ _ hr hr' hb hb' => targetCell_inj (by omega) (by omega) (by omega) (by omega)

/-- Settles O59: both draws toggle the cells the sprite covers, and a covered cell is lit at the second exactly if it
was unlit at the first. -/
theorem drawingTwiceRestoresTheScreen : Obligations.DrawingTwiceRestoresTheScreen := by
  intro fb px py rows hlen
  have first := fb.draw_toggles px py (rows := rows) (by omega)
  have second := (fb.draw px py rows).fb.draw_toggles px py (rows := rows) (by omega)
  refine ⟨FrameBuffer.ext_cell fun c => ?restored, ?collides⟩
  case restored =>
    by_cases hc : SpriteCovers px py rows c
    · rw [second.flips c hc, first.flips c hc, Bool.not_not]
    · rw [second.keeps c hc, first.keeps c hc]
  case collides =>
    rw [second.collides]
    simp only [Bool.false_eq_true, false_or]
    refine exists_congr fun c => and_congr_right fun hc => ?_
    rw [first.flips c hc, Bool.not_eq_true']

theorem flagByte_eq_one {b : Bool} : flagByte b = 1#8 ↔ b = true := by
  cases b <;> decide

/-- Settles O60: behind the guard, the draw of the `n` bytes at `I`, its collision in `VF`, and `MOD` 1. -/
theorem drwDrawsSpriteAndSetsCollision : Obligations.DrwDrawsSpriteAndSetsCollision := by
  refine fun x y n s => ⟨fun hfits => ?draws, fun hpos hout => ?faults⟩
  case draws =>
    have hdraw := s.fb.draw_toggles (s.reg x).toNat (s.reg y).toNat
      (rows := s.mem.readBlock (s.effAddr 0) n.val) (by rw [Memory.readBlock_length]; omega)
    refine ⟨_, s.mem.readBlock (s.effAddr 0) n.val, guardRange_eq_next.2 ⟨rangeOk_iff.2 (by omega), rfl⟩,
      Memory.readBlock_length _ _ _, fun r b hb => ?rows, fun c => ⟨hdraw.flips c, hdraw.keeps c⟩, ?collision, ?flag,
      rfl, rfl, sameRegsExcept_setReg _ vf _, rfl, fun _ => rfl, ⟨rfl, rfl⟩, ⟨rfl, rfl⟩, rfl, rfl⟩
    case rows =>
      rw [Memory.readBlock_getElem?] at hb
      split_ifs at hb
      exact (Option.some.inj hb).symm
    case collision =>
      rw [State.advancePc_reg, State.setModified_reg, State.setReg_reg, if_pos rfl, flagByte_eq_one, hdraw.collides]
      simp
    case flag =>
      rw [State.advancePc_reg, State.setModified_reg, State.setReg_reg, if_pos rfl]
      cases (s.fb.draw _ _ _).collision <;> decide
  case faults => exact guardRange_eq_fault.2 ⟨rangeOk_eq_false.2 ⟨hpos, hout⟩, rfl⟩

end Sys2Proof.Machine
end
